-- ==== Sys2Proof/Word.lean ====
section
/-! DEFINITION. The word types of the block: the widths the spec gives its registers, its selector and its ports
(spec/00_scope.md R10, R12; spec/10_state.md R31; spec/30_encoding.md R71). Bit 0 is the least significant bit (R12). -/

namespace Sys2Proof

/-- One byte, the unit in which the model lays out a selector (R71: five bits, the upper three zero). -/
abbrev Byte := BitVec 8

/-- The `fsm_step` selector `SEL[4:0]` (R71). -/
abbrev Sel := BitVec 5

/-- The raw sample: bit `i` set means the data line read low at shift position `i` (R35). -/
abbrev RawSample := BitVec 17

/-- The 16-bit logical word of `STATE` and of the decode network (R37, R82). -/
abbrev LogicalWord := BitVec 16

/-- A vector over the sixteen button positions, 1 = pressed (R116(a)). -/
abbrev ButtonVector := BitVec 16

/-- A shift position, 0 to 16: "A model should give `bidx` the type of integers 0 to 16" (R76). -/
abbrev Position := Fin 17

/-- The level of a one-bit line or flip-flop: `true` is 1, `false` is 0. -/
abbrev Level := Bool

end Sys2Proof
end

