-- ==== Sys2Proof/Config.lean ====
section
/-! DEFINITION. What an implementation fixes: the build parameters `T` and `S` (spec/00_scope.md R7, R8), the remap
table and the pair masks (spec/30_encoding.md R80, R84), and the FREE VALUES, the levels that the agents outside the
block put on its input pins and that no rule fixes (spec/40_protocol_reader.md R118). -/

namespace Sys2Proof

/-- `DELAY_CYCLES` (symbol `T`, R7): an integer with `T >= 1`. The bound is part of the value, because "a parameter
outside its range (`T < 1` or `S < 0`) is a build-time error: a model refuses to build such a configuration" (R172). -/
structure Delay where
  /-- the number of `clk` cycles in one standard inter-bit delay -/
  cycles : Nat
  /-- R7: `T >= 1` -/
  pos : 1 ≤ cycles
  deriving DecidableEq, Repr

/-- The two build parameters (R7, R8; R43 says they are no state of the block). -/
structure BuildParams where
  /-- `DELAY_CYCLES`, R7 -/
  T : Delay
  /-- `SYNC_STAGES`, R8 -/
  S : Nat
  deriving DecidableEq, Repr

/-- The parameters as an integrator writes them, before any check (R172). -/
structure RawParams where
  /-- the value asked for `DELAY_CYCLES` -/
  delayCycles : Int
  /-- the value asked for `SYNC_STAGES`; R8: "the default is `S = 2`" -/
  syncStages : Int := 2
  deriving DecidableEq, Repr

namespace Config

/-- R10: the last shift position, the presence sentinel. -/
def lastPosition : Position := 16

/-- R10: the shift positions of one read in the order of the wire (R51). -/
def positions : List Position := [0, 1, 2, 3, 4, 5, 6, 7, 8, 9, 10, 11, 12, 13, 14, 15, 16]

/-- R10, R77: `WT = ceil(log2(2*T))`, the width of `tcnt`; 1 when `T = 1`. -/
def tcntWidth (T : Nat) : Nat := Nat.log2 (2 * T - 1) + 1

/-- R80: the remap table `LUT[0..16]`, indexed by shift position (notes/assumptions/17.md). -/
def lutTable : Vector LogicalWord 17 :=
  #v[0x0200, 0x0400, 0x0002, 0x0004, 0x0008, 0x0010, 0x0020, 0x0040, 0x0080, 0x0100, 0x0800, 0x1000,
     0x0000, 0x0000, 0x0000, 0x0000, 0x0001]

/-- R80: entry `i` of the remap table. -/
def LUT (i : Position) : LogicalWord := lutTable[i]

/-- R84: the up/down pair mask. -/
def UD : LogicalWord := 0x0018

/-- R84: the left/right pair mask. -/
def LR : LogicalWord := 0x0060

/-- DESIGN CHOICE (notes/assumptions/1.md), unsafe: the build of `State.reset`. `S = 2` is R8's default. `T` is OPEN in the spec (R7,
D3); `T = 2` is the smallest `T` that R203 allows with that default and `P = 0`. No statement rests on these numbers. -/
def defaultParams : BuildParams := { T := { cycles := 2, pos := by decide }, S := 2 }

/-- FREE VALUE (notes/assumptions/2.md), safe: the level of `rst` at edge `n` when no host input is queued for it. The
host may "assert `rst` at any edge" (R178). -/
opaque freeRst : Nat → Level

/-- FREE VALUE (notes/assumptions/2.md), safe: the level of `start_i` at edge `n` when no host input is queued for it. The
host may "drive `start_i = 1` at any edge" (R178). -/
opaque freeStart : Nat → Level

/-- FREE VALUE (notes/assumptions/3.md), safe: the level of `data_i` at edge `n` where neither a queued level nor the
controller contract fixes it (R116(d), R118). -/
opaque freeData : Nat → Level

/-- FREE VALUE (notes/assumptions/3.md), safe: the sample that CLKLO_STEP takes at edge `n` where `2*T < S + 1 + P`, whatever the
pin and the chain hold: "any bit, 0 or 1", "never a fixed value" (R118, R203(a)). One edge takes the sample of one position of one read,
so each position and each read has a draw of its own. -/
opaque freeSample : Nat → Level

/-- FREE VALUE (notes/assumptions/3.md), safe: what the controller captures at edge `n` for a button `k` that changed during the latch
pulse: "the captured `b[k]` for that button is a draw" (R118). -/
opaque freeCapture : Nat → Nat → Level

end Config
end Sys2Proof
end

