-- ==== Sys2Proof/Syntax.lean ====
section
/-! DEFINITION. The syntax: one constructor per row of spec/opcode_table.json. The block has no instruction stream
(spec/30_encoding.md R70): what it executes in each cycle is ONE FSM operation, chosen by the selector, and the six
datapath operations, which are always active and never selected (R75). -/

namespace Sys2Proof

/-- The three encodings of `phase` that name no phase (R73). -/
inductive ReservedPhase where
  /-- `3'b101` -/
  | p101
  /-- `3'b110` -/
  | p110
  /-- `3'b111` -/
  | p111
  deriving DecidableEq, Repr

/-- What the 3-bit `phase` register can hold: the five phases of R72, and the three reserved encodings of R73.
R73 advises a five-valued enumeration and also gives the effect of an edge from a reserved encoding; the type keeps the
three so that this effect can be modelled, and R44(a), "`phase` holds one of the five reachable values", is the
invariant `Machine.Inv` (DESIGN CHOICE, notes/assumptions/4.md, safe). -/
inductive Phase where
  /-- `3'b000`: strobe 0, clock 1, until `start_i` -/
  | idle
  /-- `3'b001`: strobe 1, clock 1, for `2*T` cycles -/
  | latch
  /-- `3'b010`: strobe 0, clock 1, for `T` cycles -/
  | settle
  /-- `3'b011`: strobe 0, clock 0, for `T` cycles -/
  | clklo
  /-- `3'b100`: strobe 0, clock 1, for `T` cycles -/
  | clkhi
  /-- `3'b101`, `3'b110`, `3'b111` (R73) -/
  | reserved (r : ReservedPhase)
  deriving DecidableEq, Repr

/-- R70: the two formats. "No other format, length or prefix exists." -/
inductive Format where
  /-- the 5-bit selector of R71 -/
  | fsmStep
  /-- no selector bits, always active -/
  | datapath
  deriving DecidableEq, Repr

/-- The operations, one constructor per row of spec/opcode_table.json (R74, R75). A selector bit that a row's mask
leaves out is an operand of its constructor, so that no bit of a selector is dropped by decoding. -/
inductive Instr where
  /-- RESET, R100: `rst == 1` with any `start_i` and any `phase` -/
  | reset (start : Level) (phase : Phase)
  /-- IDLE_NOP, R101 -/
  | idleNop
  /-- READ_START, R102 -/
  | readStart
  /-- LATCH_STEP, R103: `start_i` is a don't-care -/
  | latchStep (start : Level)
  /-- SETTLE_STEP, R104: `start_i` is a don't-care -/
  | settleStep (start : Level)
  /-- CLKLO_STEP, R105: `start_i` is a don't-care -/
  | clkloStep (start : Level)
  /-- CLKHI_STEP, R106: `start_i` is a don't-care -/
  | clkhiStep (start : Level)
  /-- SYNC_SHIFT, R107: datapath, at every edge with `rst == 0` -/
  | syncShift
  /-- REMAP, R140: datapath, combinational -/
  | remap
  /-- RESOLVE_UD, R141: datapath, combinational -/
  | resolveUd
  /-- RESOLVE_LR, R142: datapath, combinational -/
  | resolveLr
  /-- PRESENCE_GATE, R143: datapath, combinational -/
  | presenceGate
  /-- DECODE, R144: datapath, combinational -/
  | decode
  deriving DecidableEq, Repr

/-- R70, R74, R75: the format of each operation. -/
def Instr.format : Instr → Format
  | .reset _ _ => .fsmStep
  | .idleNop => .fsmStep
  | .readStart => .fsmStep
  | .latchStep _ => .fsmStep
  | .settleStep _ => .fsmStep
  | .clkloStep _ => .fsmStep
  | .clkhiStep _ => .fsmStep
  | .syncShift => .datapath
  | .remap => .datapath
  | .resolveUd => .datapath
  | .resolveLr => .datapath
  | .presenceGate => .datapath
  | .decode => .datapath

/-- R44(a), R72: the phase is one of the five named ones. -/
def Phase.isNamed : Phase → Bool
  | .idle => true
  | .latch => true
  | .settle => true
  | .clklo => true
  | .clkhi => true
  | .reserved _ => false

end Sys2Proof
end

