-- ==== Sys2Proof/Machine/State.lean ====
section
/-! DEFINITION. The state of the machine. The block's own state is the seven registers of spec/10_state.md R31 ("The only
state is the registers of rule R31", R30). Beside them stand the model's own fields, named as such: the build
parameter `T`, the nets of the combinational decode network, and the two agents that drive the input pins. -/

namespace Sys2Proof.Machine

/-- What the host drives at one edge (R11(b), R20): the `{rst, start_i}` pair of the stimulus notation (R87). -/
structure HostPins where
  /-- `rst`, synchronous, active high -/
  rst : Level
  /-- `start_i`, a level sampled at each edge (R25) -/
  start : Level
  deriving DecidableEq, Repr

/-- A connected controller, in the terms of the contract R116 (DESIGN CHOICE, notes/assumptions/6.md). It is an agent of the
environment, not of the block. -/
structure Controller where
  /-- the buttons as they are pressed now, 1 = pressed, over positions 0 to 15 -/
  buttons : ButtonVector
  /-- the buttons that changed during the present latch pulse (R118: their capture is a draw) -/
  moving : ButtonVector
  /-- `b[0..15]` as the latch pulse captured it (R116(a)) -/
  captured : ButtonVector
  /-- how many events (R116(d)) followed the last latch pulse: 0 during it, 1 after the strobe fell, one more for
  every rising edge of the clock line -/
  events : Nat
  /-- the whole cycles since the last event first showed -/
  age : Nat
  deriving DecidableEq, Repr

/-- What drives `data_i` (R11(c), R24): the `PAD` models of R87, or a queue of levels. -/
inductive Pad where
  /-- the level at each coming edge, the next one first; where the list ends the level is free (R118) -/
  | levels (l : List Level)
  /-- a connected controller that meets R116 (a) to (e) -/
  | connected (c : Controller)
  /-- R116(f): "With no controller, `data_i` is 1 at every edge" -/
  | disconnected
  /-- R116(g): `data_i` is 0 at every edge -/
  | stuckLow
  deriving DecidableEq, Repr

/-- The values on the nets of the decode network in the current cycle (R75). They are combinational, no registers
(R43, R152), and the model's own field (DESIGN CHOICE, notes/assumptions/5.md): every step computes them again from `RAW`
(`Machine.settle`). -/
structure Nets where
  /-- REMAP's output (R140) -/
  mapped : LogicalWord
  /-- RESOLVE_UD's output (R141) -/
  ud : LogicalWord
  /-- RESOLVE_LR's output (R142) -/
  lr : LogicalWord
  /-- PRESENCE_GATE's output (R143) -/
  gated : LogicalWord
  /-- DECODE's output (R144) -/
  decoded : LogicalWord
  deriving DecidableEq, Repr

/-- The whole machine in one cycle. The seven fields after `T` and `P` are R31's registers. -/
structure State where
  /-- build parameter `DELAY_CYCLES` (R7); no operation writes it (R41, D29; DESIGN CHOICE, notes/assumptions/7.md) -/
  T : Delay
  /-- `P_PROP` (symbol `P`, R9): "a property of the environment, not of the block", the whole cycles that a controller needs to present a
  bit; no operation writes it (DESIGN CHOICE, notes/assumptions/7.md) -/
  P : Nat
  /-- `phase`, 3 bits (R32) -/
  phase : Phase
  /-- `tcnt`, `WT` bits, as the number it holds (R33, R77; DESIGN CHOICE, notes/assumptions/9.md) -/
  tcnt : Nat
  /-- `bidx`, the shift position 0 to 16 (R34, R76; DESIGN CHOICE, notes/assumptions/8.md) -/
  bidx : Position
  /-- `RAW`, 17 bits (R35) -/
  raw : RawSample
  /-- `SYNC[S-1:0]`, `SYNC[0]` first; its length is the build parameter `SYNC_STAGES` (R8, R36) -/
  sync : List Level
  /-- `STATE`, 16 bits (R37) -/
  stateReg : LogicalWord
  /-- `DONE`, 1 bit (R38) -/
  done : Level
  /-- the nets of the decode network in this cycle (R75) -/
  nets : Nets
  /-- the host: its pins at each coming edge, the next one first; where the list ends they are free (R178;
  notes/assumptions/2.md and 18.md) -/
  hostIn : List HostPins
  /-- what drives `data_i` (notes/assumptions/6.md and 18.md) -/
  pad : Pad
  /-- the number of the next edge (R14), the counter the free values are applied to -/
  edge : Nat
  deriving DecidableEq, Repr

/-- Why the machine stops with a fault: never. "The block has no synchronous exception, no cause code and no fault
state. Every operation in R74 and R75 is total on every reachable state and every input" (R170). The type is closed and
empty, so no definition can raise a fault; that is exact (D14). -/
inductive Fault where
  deriving DecidableEq, Repr

/-- Why an operation is given no meaning. -/
inductive Refusal where
  /-- raised by `exec` alone, in the arm of an operation that has no meaning yet; safe. No arm raises it now. -/
  | notModelled (mnemonic : String)
  deriving DecidableEq, Repr

/-- `SYNC_STAGES` (symbol `S`, R8): the number of flip-flops in the synchronizer chain. -/
def State.S (s : State) : Nat := s.sync.length

/-- The machine in the cycle after a reset edge (R45), for any build and any response time `P`: the registers at R45's values, the nets as the
decode network settles on `RAW = 0`, and nothing queued at the input pins (notes/assumptions/18.md). Before the first reset
edge the block may be in any state (R191, notes/assumptions/13.md). -/
def State.resetWith (p : BuildParams) (P : Nat) : State where
  T := p.T
  P := P
  phase := .idle
  tcnt := 0
  bidx := 0
  raw := 0x00000
  sync := List.replicate p.S true
  stateReg := 0x0000
  done := false
  nets := { mapped := 0, ud := 0, lr := 0, gated := 0, decoded := 0 }
  hostIn := []
  pad := .levels []
  edge := 0

/-- The machine right after reset (R45), in the build `Config.defaultParams` with `P = 0` (DESIGN CHOICE, notes/assumptions/1.md). -/
def State.reset : State := State.resetWith Config.defaultParams 0

end Sys2Proof.Machine
end

