-- ==== Sys2Proof/Machine/Flags.lean ====
section
/-! DEFINITION. The outputs of a cycle: the two lines to the controller (spec/10_state.md R22, R23), the three status
indications (R26, R27, R40; "no condition codes") and the two observation words (R28, R29). Each is a function of
the registers alone. -/

namespace Sys2Proof.Machine

/-- R22: `strobe_o := (phase == LATCH) ? 1 : 0`. -/
def strobeO (s : State) : Level := if s.phase = .latch then true else false

/-- R23: `clock_o := (phase == CLKLO) ? 0 : 1`. -/
def clockO (s : State) : Level := if s.phase = .clklo then false else true

/-- R26: `busy_o := (phase != IDLE) ? 1 : 0`. -/
def busyO (s : State) : Level := if s.phase ≠ .idle then true else false

/-- R27: `done_o` is the value of register `DONE`. -/
def doneO (s : State) : Level := s.done

/-- R28: `state_o` is the value of register `STATE`. -/
def stateO (s : State) : LogicalWord := s.stateReg

/-- R29: `raw_o` is the value of register `RAW`. -/
def rawO (s : State) : RawSample := s.raw

/-- R37, R40: the presence flag `STATE[0]`. -/
def presentFlag (s : State) : Level := s.stateReg.getLsbD 0

end Sys2Proof.Machine
end

