-- ==== Sys2Proof/WellFormed.lean ====
section
/-! DEFINITION. What is refused before the machine runs. An operation is well formed AS THE CONTENTS OF A SELECTOR
when its format is `fsm_step` (spec/30_encoding.md R70, R75: a datapath operation is never selected); its operands'
types admit exactly the values the encoding admits. A build is well formed when `T >= 1` and `S >= 0`
(spec/60_exceptions.md R172). -/

namespace Sys2Proof

/-- R70, R75: `i` can stand in a selector. The six datapath operations have "no selector bits" and "are never selected". -/
abbrev Instr.WellFormed (i : Instr) : Prop := i.format = .fsmStep

/-- Why a configuration is not built (R172). -/
inductive BuildRefusal where
  /-- `T < 1` -/
  | delayOutOfRange (t : Int)
  /-- `S < 0` -/
  | syncOutOfRange (s : Int)
  deriving DecidableEq, Repr

/-- R7, R8, R172: the parameters lie in their ranges. -/
abbrev RawParams.WellFormed (p : RawParams) : Prop := 1 ≤ p.delayCycles ∧ 0 ≤ p.syncStages

/-- R172: "A parameter outside its range (`T < 1` or `S < 0`) is a build-time error: a model refuses to build such a
configuration." Parameters that violate R203 still build (R172). -/
def RawParams.build (p : RawParams) : Except BuildRefusal BuildParams :=
  if h : 1 ≤ p.delayCycles then
    if 0 ≤ p.syncStages then
      .ok { T := { cycles := p.delayCycles.toNat, pos := by omega }, S := p.syncStages.toNat }
    else .error (.syncOutOfRange p.syncStages)
  else .error (.delayOutOfRange p.delayCycles)

end Sys2Proof
end

