-- ==== Sys2Proof/Decode.lean ====
section
/-! DEFINITION. Selectors to operations and back (spec/30_encoding.md R71 to R74, R86). Decoding is total: every
5-bit selector and every list of bytes gives an operation or a refusal by name. The datapath operations have no
selector bits (R70), so no selector decodes to one and their encoding is empty. -/

namespace Sys2Proof

/-- R72, R73: the 3-bit encoding of `phase`. -/
def Phase.enc : Phase → BitVec 3
  | .idle => 0b000#3
  | .latch => 0b001#3
  | .settle => 0b010#3
  | .clklo => 0b011#3
  | .clkhi => 0b100#3
  | .reserved .p101 => 0b101#3
  | .reserved .p110 => 0b110#3
  | .reserved .p111 => 0b111#3

/-- R72, R73: the phase that three bits name. -/
def Phase.ofBits (b : BitVec 3) : Phase :=
  match b.getLsbD 2, b.getLsbD 1, b.getLsbD 0 with
  | false, false, false => .idle
  | false, false, true => .latch
  | false, true, false => .settle
  | false, true, true => .clklo
  | true, false, false => .clkhi
  | true, false, true => .reserved .p101
  | true, true, false => .reserved .p110
  | true, true, true => .reserved .p111

/-- R71: `SEL[4:0] = {rst, start_i, phase[2:0]}`. -/
def selectorOf (rst start : Level) (phase : Phase) : Sel :=
  BitVec.ofBool rst ++ (BitVec.ofBool start ++ phase.enc)

/-- R71: `SEL[4]`. -/
def Sel.rst (w : Sel) : Level := w.getLsbD 4

/-- R71: `SEL[3]`. -/
def Sel.start (w : Sel) : Level := w.getLsbD 3

/-- R71: `SEL[2:0]`. -/
def Sel.phase (w : Sel) : Phase := Phase.ofBits (w.extractLsb' 0 3)

/-- R74: the operation a selector chooses. `rst == 1` wins over every other row; a reserved phase encoding with
`rst == 0` is refused, by name ("a decoder of `SEL` refuses them", R73). -/
def decodeSel (w : Sel) : Except ReservedPhase Instr :=
  if Sel.rst w then .ok (.reset (Sel.start w) (Sel.phase w))
  else
    match Sel.phase w with
    | .idle => .ok (if Sel.start w then .readStart else .idleNop)
    | .latch => .ok (.latchStep (Sel.start w))
    | .settle => .ok (.settleStep (Sel.start w))
    | .clklo => .ok (.clkloStep (Sel.start w))
    | .clkhi => .ok (.clkhiStep (Sel.start w))
    | .reserved r => .error r

/-- Why a list of bytes is refused. -/
inductive DecodeRefusal where
  /-- there is no byte, so no selector -/
  | noSelector
  /-- a bit above `SEL[4]` is set: "The selector has a fixed width of 5 bits" (R86) -/
  | upperBitsSet (b : Byte)
  /-- `rst == 0` and the phase bits name no phase (R73) -/
  | reservedPhase (r : ReservedPhase)
  deriving DecidableEq, Repr

/-- The decoder over bytes: one byte holds one selector in its low five bits, the upper three are 0; the rest of the
bytes is handed back (DESIGN CHOICE, notes/assumptions/10.md). -/
def decodeBytes : List Byte → Except DecodeRefusal (Instr × List Byte)
  | [] => .error .noSelector
  | b :: rest =>
    if b.extractLsb' 5 3 = 0#3 then
      match decodeSel (b.extractLsb' 0 5) with
      | .ok i => .ok (i, rest)
      | .error r => .error (.reservedPhase r)
    else .error (.upperBitsSet b)

/-- R71, R74: the selector that chooses `i`, `none` for a datapath operation (R70: "no selector bits"). -/
def encodeSel : Instr → Option Sel
  | .reset start phase => some (selectorOf true start phase)
  | .idleNop => some (selectorOf false false .idle)
  | .readStart => some (selectorOf false true .idle)
  | .latchStep start => some (selectorOf false start .latch)
  | .settleStep start => some (selectorOf false start .settle)
  | .clkloStep start => some (selectorOf false start .clklo)
  | .clkhiStep start => some (selectorOf false start .clkhi)
  | .syncShift => none
  | .remap => none
  | .resolveUd => none
  | .resolveLr => none
  | .presenceGate => none
  | .decode => none

/-- The bytes of an operation: its selector in the low five bits of one byte; no byte for a datapath operation. -/
def encode (i : Instr) : List Byte :=
  match encodeSel i with
  | some w => [(0#3 ++ w : Byte)]
  | none => []

/-- What the decoder reads from one opcode-table word: `nbits` bits laid out as bytes, the first byte lowest. One selector takes one
byte, and a word with more in it is refused; so is a row without bits, a datapath row (R70: "no selector bits";
notes/assumptions/10.md). -/
def decodeTableWord (nbits w : Nat) : Option Instr :=
  let v := w % 2 ^ nbits
  if nbits ≠ 0 ∧ v < 2 ^ 8 then
    match decodeBytes [BitVec.ofNat 8 v] with
    | .ok (i, _) => some i
    | .error _ => none
  else none

/-- One row of R74's opcode map, as spec/opcode_table.json gives it. -/
structure SelectorRow where
  /-- the row's mnemonic -/
  mnemonic : String
  /-- the row's match -/
  pattern : Sel
  /-- the row's mask -/
  mask : Sel
  deriving DecidableEq, Repr

/-- R74: the seven rows of the `fsm_step` opcode map. -/
def selectorRows : List SelectorRow :=
  [⟨"RESET", 0x10, 0x10⟩, ⟨"IDLE_NOP", 0x00, 0x1F⟩, ⟨"READ_START", 0x08, 0x1F⟩, ⟨"LATCH_STEP", 0x01, 0x17⟩,
   ⟨"SETTLE_STEP", 0x02, 0x17⟩, ⟨"CLKLO_STEP", 0x03, 0x17⟩, ⟨"CLKHI_STEP", 0x04, 0x17⟩]

/-- R74: "A row matches when `(SEL & mask) == match`." -/
def SelectorRow.hits (r : SelectorRow) (w : Sel) : Bool := w &&& r.mask == r.pattern

/-- The row of each `fsm_step` operation, by its mnemonic; a datapath operation has none. -/
def Instr.rowName : Instr → Option String
  | .reset _ _ => some "RESET"
  | .idleNop => some "IDLE_NOP"
  | .readStart => some "READ_START"
  | .latchStep _ => some "LATCH_STEP"
  | .settleStep _ => some "SETTLE_STEP"
  | .clkloStep _ => some "CLKLO_STEP"
  | .clkhiStep _ => some "CLKHI_STEP"
  | .syncShift => none
  | .remap => none
  | .resolveUd => none
  | .resolveLr => none
  | .presenceGate => none
  | .decode => none

end Sys2Proof
end

