-- ==== Sys2Proof/Machine/Pad.lean ====
section
/-! DEFINITION. The controller's side of the 3-wire link, as the contract spec/40_protocol_reader.md R116 words it: what level
`data_i` has at the coming edge, and how a controller follows the two output lines. "These are obligations on the
environment, not behaviour of the block." Where the contract leaves a level open, the level is a free value (R118). -/

namespace Sys2Proof.Machine

/-- R116(b), (c), (e): the level the line must show `k` rising clock edges after the latch, for the captured buttons
`b`: `~b[k]` for `k <= 15`, and the presence level 0 from 16 on. -/
def presentedLevel (b : ButtonVector) (k : Nat) : Level :=
  if k < 16 then !b.getLsbD k else false

/-- R116(d): the level at the coming edge. A level is a draw before the first event after a latch, and until `P` whole
cycles have passed since the last event (R118). -/
def controllerLevel (P : Nat) (c : Controller) (edge : Nat) : Level :=
  if c.events = 0 ∨ c.age < P then Config.freeData edge
  else presentedLevel c.captured (c.events - 1)

/-- R24, R87, R116: the level of `data_i` at edge number `edge`, with response time `P`. -/
def padLevel (P : Nat) (p : Pad) (edge : Nat) : Level :=
  match p with
  | .levels (l :: _) => l
  | .levels [] => Config.freeData edge
  | .connected c => controllerLevel P c edge
  | .disconnected => true
  | .stuckLow => false

/-- R116(a), R118: what a latch pulse that ends at edge `edge` captures: each button as it is pressed, and a draw for
a button that changed during the pulse. -/
def capturedButtons (c : Controller) (edge : Nat) : ButtonVector :=
  BitVec.ofFnLE (n := 16) fun k =>
    if c.moving.getLsbD k.val then Config.freeCapture edge k.val else c.buttons.getLsbD k.val

/-- The two output lines in one cycle. -/
structure Lines where
  /-- `strobe_o` -/
  strobe : Level
  /-- `clock_o` -/
  clock : Level
  deriving DecidableEq, Repr

/-- R116(d): "the falling edge of `strobe_o`". -/
def Lines.strobeFell (before after : Lines) : Bool := before.strobe && !after.strobe

/-- R116(d): "a rising edge of `clock_o`". -/
def Lines.clockRose (before after : Lines) : Bool := !before.clock && after.clock

/-- The rising edge of `strobe_o`, the start of a latch pulse (R116(a)). -/
def Lines.strobeRose (before after : Lines) : Bool := !before.strobe && after.strobe

/-- R116(a) to (e): the controller after edge number `edge`, at which the lines went from `before` to `after`. -/
def controllerNext (c : Controller) (before after : Lines) (edge : Nat) : Controller :=
  if Lines.strobeFell before after then
    { c with captured := capturedButtons c edge, moving := 0, events := 1, age := 0 }
  else if after.strobe then
    { c with moving := if Lines.strobeRose before after then 0 else c.moving, events := 0, age := 0 }
  else if Lines.clockRose before after && c.events != 0 then
    { c with events := c.events + 1, age := 0 }
  else { c with age := c.age + 1 }

/-- What drives `data_i` after edge number `edge`. A queued level is used up; the fixed pads stay as they are. -/
def padNext (p : Pad) (before after : Lines) (edge : Nat) : Pad :=
  match p with
  | .levels l => .levels (l.drop 1)
  | .connected c => .connected (controllerNext c before after edge)
  | .disconnected => .disconnected
  | .stuckLow => .stuckLow

/-- A controller that has seen no latch pulse yet, with buttons `b` pressed and none of them moving (R87
`PAD connected BTN=<b>`). Plugged in during a latch pulse it captures `b` when that pulse ends (DESIGN CHOICE, notes/assumptions/20.md). -/
def connectedPad (b : ButtonVector) : Pad :=
  .connected { buttons := b, moving := 0, captured := 0, events := 0, age := 0 }

/-- The buttons of a connected controller change to `b` between two edges, while `strobe_o` is `strobe`: during a latch pulse the
buttons that differ become moving (R118). -/
def pressButtons (c : Controller) (b : ButtonVector) (strobe : Level) : Controller :=
  { c with buttons := b, moving := if strobe then c.moving ||| (c.buttons ^^^ b) else c.moving }

end Sys2Proof.Machine
end

