-- ==== Sys2Proof/Machine/Operands.lean ====
section
/-! DEFINITION. What an operation reads: the input pins at the coming edge (spec/10_state.md R20, R25), the selector
they form with `phase` (spec/30_encoding.md R71), the sampled level `dsamp` (spec/40_protocol_reader.md
R108), and the sample itself, which is a draw where the timing of R203(a) is not met (R118). -/

namespace Sys2Proof.Machine

/-- `rst` and `start_i` at the coming edge. Where the host has queued nothing, they are free (R178). -/
def hostPins (s : State) : HostPins :=
  match s.hostIn with
  | p :: _ => p
  | [] => { rst := Config.freeRst s.edge, start := Config.freeStart s.edge }

/-- `data_i` at the coming edge. -/
def dataI (s : State) : Level := padLevel s.P s.pad s.edge

/-- R71: the selector at the coming edge. -/
def selector (s : State) : Sel := selectorOf (hostPins s).rst (hostPins s).start s.phase

/-- R108: `dsamp := (S == 0) ? data_i : SYNC[S-1]`. -/
def dsamp (s : State) : Level :=
  match s.sync.getLast? with
  | none => dataI s
  | some b => b

/-- R203(a): `2*T >= S + 1 + P`. -/
def timingMet (s : State) : Bool := decide (s.sync.length + 1 + s.P ≤ 2 * s.T.cycles)

/-- The level that CLKLO_STEP samples: `dsamp` (R105), and where R203(a) fails a draw, whatever drives the pin: the
parameters "build, but give draws at sampling" (R172), "any bit, 0 or 1" (R118). -/
def sampledLevel (s : State) : Level := if timingMet s then dsamp s else Config.freeSample s.edge

end Sys2Proof.Machine
end

