-- ==== Sys2Proof/Machine/Ops.lean ====
section
/-! DEFINITION. The shared operations: the writes to registers that the rules of spec/40_protocol_reader.md are made of, and the
sequencing of outcomes. The block takes no exception and returns from none (spec/60_exceptions.md R170, R175,
R176), so there is no such operation here; the nearest event, RESET, is `resetRegisters`. It has no memory either
(spec/20_memory.md R50). -/

namespace Sys2Proof.Machine

/-- One part of an edge after another: the second runs on the state the first leaves. -/
def andThen (o : Host.Outcome State Fault Refusal) (f : State → Host.Outcome State Fault Refusal) :
    Host.Outcome State Fault Refusal :=
  match o with
  | .next s => f s
  | .fault r => .fault r
  | .refused r => .refused r

/-- R77: `tcnt + 1` at the width `WT` of the register (DEDUCED, notes/assumptions/9.md). It wraps in no state reachable from
reset (R33). -/
def countUp (T tcnt : Nat) : Nat := (tcnt + 1) % 2 ^ Config.tcntWidth T

/-- A cycle more in the same phase: `tcnt <- tcnt + 1; DONE <- 0` (R103 to R106). -/
def tick (s : State) : State := { s with tcnt := countUp s.T.cycles s.tcnt, done := false }

/-- The next phase begins: `phase <- p; tcnt <- 0; DONE <- 0` (R103 to R106). -/
def enterPhase (p : Phase) (s : State) : State := { s with phase := p, tcnt := 0, done := false }

/-- R33: a phase of `len` cycles ends at the edge where `tcnt == len - 1`; until then it counts. -/
def waitFor (len : Nat) (s : State) (atEnd : State) : State :=
  if s.tcnt = len - 1 then atEnd else tick s

/-- Bit `i` of a raw sample becomes `b`; no other bit changes. -/
def setBit (v : RawSample) (i : Position) (b : Bool) : RawSample :=
  if b then v ||| (1#17 <<< i.val) else v &&& ~~~(1#17 <<< i.val)

/-- R78: `RAW[bidx]` takes the inverse of the sampled level, and nothing else changes. -/
def captureSample (level : Level) (s : State) : State := { s with raw := setBit s.raw s.bidx (!level) }

/-- R106, not at the last position: `bidx <- bidx + 1`. -/
def nextPosition (s : State) : State := { s with bidx := s.bidx + 1 }

/-- R106, at the last position: `STATE <- d; DONE <- 1; phase <- IDLE; tcnt <- 0`, and `bidx` stays. -/
def completeRead (d : LogicalWord) (s : State) : State :=
  { s with stateReg := d, done := true, phase := .idle, tcnt := 0 }

/-- R102: the register writes of READ_START. -/
def beginRead (s : State) : State :=
  { s with phase := .latch, tcnt := 0, bidx := 0, raw := 0x00000, done := false }

/-- R101: `DONE <- 0`. -/
def clearDone (s : State) : State := { s with done := false }

/-- R100: the register writes of RESET. `SYNC` becomes all ones, whatever its length. -/
def resetRegisters (s : State) : State :=
  { s with
    phase := .idle
    tcnt := 0
    bidx := 0
    raw := 0x00000
    sync := List.replicate s.sync.length true
    stateReg := 0x0000
    done := false }

/-- R36, R107: the synchronizer chain takes `level` at `SYNC[0]` and `SYNC[k]` takes `SYNC[k-1]`; an empty chain
stays empty. -/
def shiftIn (level : Level) (chain : List Level) : List Level := (level :: chain).take chain.length

/-- R107: the chain shifts in the level of `data_i`. -/
def shiftSync (s : State) : State := { s with sync := shiftIn (dataI s) s.sync }

/-- The environment moves past the edge: the host's pins of this edge are used up, the controller follows the lines
as they changed from `before` (the state before the edge), and the edges count on (R14). -/
def advancePins (before s : State) : State :=
  { s with
    hostIn := s.hostIn.drop 1
    pad := padNext s.pad ⟨strobeO before, clockO before⟩ ⟨strobeO s, clockO s⟩ s.edge
    edge := s.edge + 1 }

end Sys2Proof.Machine
end

