-- ==== Sys2Proof/Machine/Decoder.lean ====
section
/-! DEFINITION. The state decoder: the combinational network between `RAW` and `STATE`, spec/41_state_decoder.md. The
functions are the spec's pseudocode; the meaning of each operation drives the operation's net with its function's
value, and writes no register (R43, R152). -/

namespace Sys2Proof.Machine

/-- R140's loop over a remap table. D8 advises a table parameter; the block's table is `Config.LUT`
(notes/assumptions/17.md). -/
def remapWith (table : Position → LogicalWord) (raw : RawSample) : LogicalWord :=
  Config.positions.foldl (fun m i => if raw.getLsbD i.val = true then m ||| table i else m) 0x0000

/-- R140: REMAP, from the raw sample to the mapped word. -/
def remap (raw : RawSample) : LogicalWord := remapWith Config.LUT raw

/-- R141: `resolve(v, pm) := (((v & pm) ^ pm) == 0) ? (v & ~pm) : v`. -/
def resolve (v pm : LogicalWord) : LogicalWord :=
  if ((v &&& pm) ^^^ pm) = 0 then v &&& ~~~pm else v

/-- R141: `RESOLVE_UD(v) := resolve(v, UD)`. -/
def resolveUD (v : LogicalWord) : LogicalWord := resolve v Config.UD

/-- R142: `RESOLVE_LR(v) := resolve(v, LR)`. -/
def resolveLR (v : LogicalWord) : LogicalWord := resolve v Config.LR

/-- R143: `PRESENCE_GATE(v) := (v[0] == 1) ? v : 0x0000`. -/
def presenceGate (v : LogicalWord) : LogicalWord := if v.getLsbD 0 = true then v else 0x0000

/-- R144: DECODE, in the source's order: remap, presence check, then the two cancellations. -/
def decodeRaw (raw : RawSample) : LogicalWord :=
  let m := remap raw
  if m.getLsbD 0 = false then 0x0000 else resolveLR (resolveUD m)

/-- R140: REMAP drives the mapped word. -/
def execRemap (s : State) : Host.Outcome State Fault Refusal :=
  .next { s with nets := { s.nets with mapped := remap s.raw } }

/-- R141: RESOLVE_UD, on the mapped word. -/
def execResolveUd (s : State) : Host.Outcome State Fault Refusal :=
  .next { s with nets := { s.nets with ud := resolveUD s.nets.mapped } }

/-- R142: RESOLVE_LR, on RESOLVE_UD's output (the order of R144; DEDUCED, notes/assumptions/12.md). -/
def execResolveLr (s : State) : Host.Outcome State Fault Refusal :=
  .next { s with nets := { s.nets with lr := resolveLR s.nets.ud } }

/-- R143: PRESENCE_GATE, on RESOLVE_LR's output (R144: DECODE "equals
`PRESENCE_GATE(RESOLVE_LR(RESOLVE_UD(REMAP(RAW))))`"). -/
def execPresenceGate (s : State) : Host.Outcome State Fault Refusal :=
  .next { s with nets := { s.nets with gated := presenceGate s.nets.lr } }

/-- R144: DECODE drives the word that CLKHI_STEP captures at the last position. -/
def execDecode (s : State) : Host.Outcome State Fault Refusal :=
  .next { s with nets := { s.nets with decoded := decodeRaw s.raw } }

end Sys2Proof.Machine
end

