-- ==== Sys2Proof/Machine/Reader.lean ====
section
/-! DEFINITION. The protocol reader: the meanings of the seven FSM operations and of SYNC_SHIFT,
spec/40_protocol_reader.md R100 to R107. Each is the rule's pseudocode. An operand is a don't-care bit of the selector,
and no meaning reads one (R74: "`start` is a don't-care outside `IDLE`"). -/

namespace Sys2Proof.Machine

/-- R100: RESET. -/
def execReset (_start : Level) (_phase : Phase) (s : State) : Host.Outcome State Fault Refusal :=
  .next (resetRegisters s)

/-- R101: IDLE_NOP. -/
def execIdleNop (s : State) : Host.Outcome State Fault Refusal :=
  .next (clearDone s)

/-- R102: READ_START. `STATE` keeps the previous result. -/
def execReadStart (s : State) : Host.Outcome State Fault Refusal :=
  .next (beginRead s)

/-- R103: LATCH_STEP, `2*T` cycles. -/
def execLatchStep (_start : Level) (s : State) : Host.Outcome State Fault Refusal :=
  .next (waitFor (2 * s.T.cycles) s (enterPhase .settle s))

/-- R104: SETTLE_STEP, `T` cycles. -/
def execSettleStep (_start : Level) (s : State) : Host.Outcome State Fault Refusal :=
  .next (waitFor s.T.cycles s (enterPhase .clklo s))

/-- R105: CLKLO_STEP, `T` cycles; the sample is taken at the edge that ends the hold (D6), always (R111); it is
`dsamp`, or a draw where R203(a) fails (R118, `sampledLevel`). -/
def execClkloStep (_start : Level) (s : State) : Host.Outcome State Fault Refusal :=
  .next (waitFor s.T.cycles s (enterPhase .clkhi (captureSample (sampledLevel s) s)))

/-- R106: CLKHI_STEP, `T` cycles; then the next position, or the end of the read. -/
def execClkhiStep (_start : Level) (s : State) : Host.Outcome State Fault Refusal :=
  .next (waitFor s.T.cycles s
    (if s.bidx = Config.lastPosition then completeRead (decodeRaw s.raw) s
     else enterPhase .clklo (nextPosition s)))

/-- R107: SYNC_SHIFT. -/
def execSyncShift (s : State) : Host.Outcome State Fault Refusal :=
  .next (shiftSync s)

end Sys2Proof.Machine
end

