-- ==== Sys2Proof/Machine/Dispatch.lean ====
section
/-! DEFINITION. The meaning of each operation, one arm per constructor of `Instr` (spec/30_encoding.md R74, R75). -/

namespace Sys2Proof.Machine

def exec (i : Instr) (s : State) : Host.Outcome State Fault Refusal :=
  match i with
  | .reset start phase => Sys2Proof.Machine.execReset start phase s
  | .idleNop => Sys2Proof.Machine.execIdleNop s
  | .readStart => Sys2Proof.Machine.execReadStart s
  | .latchStep start => Sys2Proof.Machine.execLatchStep start s
  | .settleStep start => Sys2Proof.Machine.execSettleStep start s
  | .clkloStep start => Sys2Proof.Machine.execClkloStep start s
  | .clkhiStep start => Sys2Proof.Machine.execClkhiStep start s
  | .syncShift => Sys2Proof.Machine.execSyncShift s
  | .remap => Sys2Proof.Machine.execRemap s
  | .resolveUd => Sys2Proof.Machine.execResolveUd s
  | .resolveLr => Sys2Proof.Machine.execResolveLr s
  | .presenceGate => Sys2Proof.Machine.execPresenceGate s
  | .decode => Sys2Proof.Machine.execDecode s

end Sys2Proof.Machine
end

