-- ==== Sys2Proof/Machine/Edge.lean ====
section
/-! DEFINITION. One rising edge of `clk`, put together from the operations (spec/40_protocol_reader.md R109): the
FSM operation that the selector chooses, then SYNC_SHIFT unless RESET replaced it, then the decode network settles
on the new `RAW`, then the environment moves on. The FSM operation runs first, on the registers as they were before the
edge, so that it reads `SYNC` "before this edge's shift" (R13, R109); only RESET writes `SYNC`, and SYNC_SHIFT does not
run at its edge (DEDUCED, notes/assumptions/16.md). -/

namespace Sys2Proof.Machine

/-- R73: from a reserved phase encoding with `rst == 0` the next edge writes `phase <- IDLE`, `tcnt <- 0` and
`DONE <- 0`, and leaves `RAW`, `bidx` and `STATE` unchanged. -/
def recoverReserved (s : State) : State := enterPhase .idle s

/-- R74: the operation that the selector chooses; a selector that the decoder refuses recovers (R73). -/
def execSelected (s : State) : Host.Outcome State Fault Refusal :=
  match decodeSel (selector s) with
  | .ok i => exec i s
  | .error _ => .next (recoverReserved s)

/-- R107: SYNC_SHIFT runs "at every edge where `rst == 0`"; at a RESET edge, RESET's write replaces it. -/
def syncUnlessReset (rst : Level) (s : State) : Host.Outcome State Fault Refusal :=
  if rst then .next s else exec .syncShift s

/-- R75: the combinational operations, "active in every cycle whatever the selector", in the order of R144. -/
def settle (s : State) : Host.Outcome State Fault Refusal :=
  andThen (exec .remap s) fun s1 =>
  andThen (exec .resolveUd s1) fun s2 =>
  andThen (exec .resolveLr s2) fun s3 =>
  andThen (exec .presenceGate s3) fun s4 =>
  exec .decode s4

/-- R109: the whole edge. -/
def risingEdge (s : State) : Host.Outcome State Fault Refusal :=
  andThen (execSelected s) fun s1 =>
  andThen (syncUnlessReset (hostPins s).rst s1) fun s2 =>
  andThen (settle s2) fun s3 =>
  .next (advancePins s s3)

/-- The pins and the phase by which the next edge's selector is `w`, the least significant five bits of a table word
(R71): the head of the host's queue and the phase register. -/
def placeSelector (s : State) (w : Sel) : State :=
  { s with
    phase := Sel.phase w
    hostIn := { rst := Sel.rst w, start := Sel.start w } :: s.hostIn.drop 1 }

end Sys2Proof.Machine
end

