-- ==== Sys2Proof/Machine/Step.lean ====
section
/-! DEFINITION. The step of the machine: one rising edge of `clk` (spec/00_scope.md R11(a), spec/40_protocol_reader.md R109). -/

namespace Sys2Proof.Machine

/-- "It takes exactly one step at each rising edge of `clk`" (R11(a)). -/
def step (s : State) : Host.Outcome State Fault Refusal := risingEdge s

/-- `s` with the table word `w` of `nbits` bits as the selector of its next edge: the block fetches nothing (R30, R53); what it runs is
chosen by `{rst, start_i, phase}` (R71), so the word sets the two pins of the next edge and the phase (DESIGN CHOICE,
notes/assumptions/11.md). -/
def State.withFetchWord (s : State) (nbits w : Nat) : State :=
  placeSelector s (BitVec.ofNat 5 (w % 2 ^ nbits))

end Sys2Proof.Machine
end

