-- ==== Sys2Proof/Machine/Run.lean ====
section
/-! DEFINITION. Several edges one after another, and how long a read still takes. Cycle `k` of a run is the state after
edge `k` (spec/00_scope.md R14); with edges numbered from 0 that is the state after `k + 1` edges. -/

namespace Sys2Proof.Machine

/-- The state after one edge. A step of this machine always answers a next state (R170), so the other two arms are
never taken. -/
def afterEdge (s : State) : State :=
  match step s with
  | .next t => t
  | .fault _ => s
  | .refused _ => s

/-- The state after `n` edges. -/
def afterEdges : Nat → State → State
  | 0, s => s
  | n + 1, s => afterEdges n (afterEdge s)

/-- R112: how many edges remain, the completing edge included, of a read that is at `(phase, bidx, tcnt)`; 0 where no
read is in progress. In `LATCH` and `SETTLE`, `bidx` is the position the first clock-low phase will sample (0 in a read
that READ_START began, R104). -/
def edgesLeft (s : State) : Nat :=
  match s.phase with
  | .idle => 0
  | .latch => (2 * s.T.cycles - s.tcnt) + s.T.cycles + (17 - s.bidx.val) * (2 * s.T.cycles)
  | .settle => (s.T.cycles - s.tcnt) + (17 - s.bidx.val) * (2 * s.T.cycles)
  | .clklo => (s.T.cycles - s.tcnt) + s.T.cycles + (16 - s.bidx.val) * (2 * s.T.cycles)
  | .clkhi => (s.T.cycles - s.tcnt) + (16 - s.bidx.val) * (2 * s.T.cycles)
  | .reserved _ => 0

end Sys2Proof.Machine
end

