-- ==== Sys2Proof/Machine/Stimulus.lean ====
section
/-! DEFINITION. The stimulus notation of spec/30_encoding.md R87: what each line of a program applies at the pins, and
how a program runs. It describes the host and the controller, not the block. -/

namespace Sys2Proof.Machine

/-- A `CHECK <port> == <value>` of R87, one constructor per output port (R20). -/
inductive PortCheck where
  /-- `CHECK strobe_o == v` -/
  | strobe (v : Level)
  /-- `CHECK clock_o == v` -/
  | clock (v : Level)
  /-- `CHECK busy_o == v` -/
  | busy (v : Level)
  /-- `CHECK done_o == v` -/
  | done (v : Level)
  /-- `CHECK state_o == v` -/
  | state (v : LogicalWord)
  /-- `CHECK raw_o == v` -/
  | raw (v : RawSample)
  deriving DecidableEq, Repr

/-- A `PAD <model>` of R87. -/
inductive PadModel where
  /-- `PAD connected BTN=<b>` -/
  | connected (b : ButtonVector)
  /-- `PAD disconnected` -/
  | disconnected
  /-- `PAD stuck_low` -/
  | stuckLow
  deriving DecidableEq, Repr

/-- A line of a program (R87). -/
inductive StimLine where
  /-- `RESET n` -/
  | reset (n : Nat)
  /-- `START` -/
  | start
  /-- `HOLD_START n` -/
  | holdStart (n : Nat)
  /-- `IDLE n` -/
  | idle (n : Nat)
  /-- `WAIT_DONE` -/
  | waitDone
  /-- `PAD <model>` -/
  | pad (m : PadModel)
  /-- `CHECK <port> == <value>` -/
  | check (c : PortCheck)
  deriving DecidableEq, Repr

/-- R87: the pins at each edge that a line applies in state `s`. `WAIT_DONE` expands to `IDLE k` "for the `k` that
reaches the completing edge"; where no read is in progress there is no such `k` and it applies no edge (DESIGN CHOICE,
notes/assumptions/14.md). -/
def linePins (s : State) : StimLine → List HostPins
  | .reset n => List.replicate n { rst := true, start := false }
  | .start => [{ rst := false, start := true }]
  | .holdStart n => List.replicate n { rst := false, start := true }
  | .idle n => List.replicate n { rst := false, start := false }
  | .waitDone => List.replicate (edgesLeft s) { rst := false, start := false }
  | .pad _ => []
  | .check _ => []

/-- R87: the assertion about the current cycle. -/
def portHolds (s : State) : PortCheck → Bool
  | .strobe v => strobeO s == v
  | .clock v => clockO s == v
  | .busy v => busyO s == v
  | .done v => doneO s == v
  | .state v => stateO s == v
  | .raw v => rawO s == v

/-- R87: `PAD` "sets the controller environment". A controller that is already connected stays the same controller,
with its buttons changed (DESIGN CHOICE, notes/assumptions/14.md). In the middle of a read the new pad's levels hold from the next
edge on: 1 for `disconnected` and 0 for `stuck_low`, with no draw for the sample in flight (DESIGN CHOICE, notes/assumptions/19.md).
A controller that replaces another pad during a latch pulse captures its buttons when that pulse ends, with no draw (DESIGN CHOICE,
notes/assumptions/20.md). -/
def setPad (m : PadModel) (s : State) : State :=
  match m with
  | .connected b =>
    match s.pad with
    | .connected c => { s with pad := .connected (pressButtons c b (strobeO s)) }
    | .levels _ => { s with pad := connectedPad b }
    | .disconnected => { s with pad := connectedPad b }
    | .stuckLow => { s with pad := connectedPad b }
  | .disconnected => { s with pad := .disconnected }
  | .stuckLow => { s with pad := .stuckLow }

/-- The host puts `pins` at the coming edges. -/
def queuePins (pins : List HostPins) (s : State) : State := { s with hostIn := pins }

/-- R87: one line; `none` where a `CHECK` fails. -/
def runLine (l : StimLine) (s : State) : Option State :=
  match l with
  | .pad m => some (setPad m s)
  | .check c => if portHolds s c then some s else none
  | .reset _ => some (afterEdges (linePins s l).length (queuePins (linePins s l) s))
  | .start => some (afterEdges (linePins s l).length (queuePins (linePins s l) s))
  | .holdStart _ => some (afterEdges (linePins s l).length (queuePins (linePins s l) s))
  | .idle _ => some (afterEdges (linePins s l).length (queuePins (linePins s l) s))
  | .waitDone => some (afterEdges (linePins s l).length (queuePins (linePins s l) s))

/-- R87: a program, line by line. -/
def runProgram : List StimLine → State → Option State
  | [], s => some s
  | l :: rest, s => (runLine l s).bind (runProgram rest)

end Sys2Proof.Machine
end

