-- ==== Sys2Proof/Safety.lean ====
section
/-! DEFINITION. The terms in which claims about runs are stated: the invariants of the reachable states (spec/10_state.md
R44), the settled decode network, the accepted read and its edges (spec/00_scope.md R14), the controller contract over a
run (spec/40_protocol_reader.md R116), and R109's step function on the registers alone. -/

namespace Sys2Proof.Machine

/-- R74, R174: outside `IDLE` the phase's own operation does the same whatever `start_i` is. -/
abbrev StartIsIgnored (s : State) : Prop :=
  ∀ a b : Level,
    exec (.latchStep a) s = exec (.latchStep b) s ∧ exec (.settleStep a) s = exec (.settleStep b) s ∧
    exec (.clkloStep a) s = exec (.clkloStep b) s ∧ exec (.clkhiStep a) s = exec (.clkhiStep b) s

/-- R148 (a) to (d): what every value of `STATE` satisfies. -/
abbrev LegalLogical (d : LogicalWord) : Prop :=
  (d.getLsbD 0 = false → d = 0x0000) ∧
  ¬(d.getLsbD 3 = true ∧ d.getLsbD 4 = true) ∧
  ¬(d.getLsbD 5 = true ∧ d.getLsbD 6 = true) ∧
  d.getLsbD 13 = false ∧ d.getLsbD 14 = false ∧ d.getLsbD 15 = false

/-- R33, R77: the terminal count of each phase; 0 where nothing is counted. -/
def lastCount (T : Nat) : Phase → Nat
  | .idle => 0
  | .latch => 2 * T - 1
  | .settle => T - 1
  | .clklo => T - 1
  | .clkhi => T - 1
  | .reserved _ => 0

/-- R44(c): `tcnt` is at most the terminal count of its phase. -/
abbrev TcntInRange (s : State) : Prop := s.tcnt ≤ lastCount s.T.cycles s.phase

/-- R44: the invariants of every state reachable from reset. (b), `bidx <= 16`, is in the type of `bidx`. -/
abbrev Inv (s : State) : Prop :=
  s.phase.isNamed = true ∧ TcntInRange s ∧ LegalLogical s.stateReg ∧
  (s.done = true → s.phase = .idle)

/-- R75, R144: what the nets of the decode network carry for a raw sample. -/
def settledNets (raw : RawSample) : Nets where
  mapped := remap raw
  ud := resolveUD (remap raw)
  lr := resolveLR (resolveUD (remap raw))
  gated := presenceGate (resolveLR (resolveUD (remap raw)))
  decoded := decodeRaw raw

/-- The nets show the values of the current cycle (R75). -/
abbrev NetsSettled (s : State) : Prop := s.nets = settledNets s.raw

/-- The host's pins at edge `e` of a run from `s`, edges numbered from 0. -/
def hostAt (s : State) (e : Nat) : HostPins :=
  match s.hostIn[e]? with
  | some p => p
  | none => { rst := Config.freeRst (s.edge + e), start := Config.freeStart (s.edge + e) }

/-- The level of `data_i` at edge `e` of a run from `s`. -/
def levelAt (s : State) (e : Nat) : Level := dataI (afterEdges e s)

/-- READ_START runs at edge 0 of the run from `s` (R102). -/
abbrev AcceptsRead (s : State) : Prop :=
  s.phase = .idle ∧ (hostAt s 0).rst = false ∧ (hostAt s 0).start = true

/-- No reset at the edges `0` to `n - 1` of the run from `s`. -/
abbrev NoResetWithin (n : Nat) (s : State) : Prop := ∀ e, e < n → (hostAt s e).rst = false

/-- The output lines in a state's cycle. -/
def linesOf (s : State) : Lines := ⟨strobeO s, clockO s⟩

/-- R116(d): an event first shows in cycle `c` of the run from `s` (cycle `c` is the state after edge `c`). -/
def eventShows (s : State) (c : Nat) : Bool :=
  Lines.strobeFell (linesOf (afterEdges c s)) (linesOf (afterEdges (c + 1) s)) ||
  Lines.clockRose (linesOf (afterEdges c s)) (linesOf (afterEdges (c + 1) s))

/-- How many events first show in the cycles `0` to `c`. -/
def eventsUpTo (s : State) (c : Nat) : Nat := (List.range (c + 1)).countP (eventShows s)

/-- R116 (b) to (e), over the `n` edges of a run from `s` that starts with a latch pulse: the level that an event
requires holds from edge `c + 1 + P` up to and including the edge at which the next event first shows. The first event is the falling
edge of the strobe and asks for bit 0. -/
def PresentsButtons (s : State) (b : ButtonVector) (n : Nat) : Prop :=
  ∀ c e, eventShows s c = true → c + 1 + s.P ≤ e → e < n →
    (∀ c', c < c' → c' < e → eventShows s c' = false) →
    levelAt s e = presentedLevel b (eventsUpTo s c - 1)

/-- R116(f): no controller, and a board that pulls the line high (R119, D21): the level is 1 at the `n` edges. -/
def PulledHigh (s : State) (n : Nat) : Prop := ∀ e, e < n → levelAt s e = true

/-- R203(a): `2*T >= S + 1 + P`. -/
abbrev TimingHolds (s : State) : Prop := s.S + 1 + s.P ≤ 2 * s.T.cycles

/-- The registers of R31 alone. -/
structure Registers where
  /-- `phase` -/
  phase : Phase
  /-- `tcnt` -/
  tcnt : Nat
  /-- `bidx` -/
  bidx : Position
  /-- `RAW` -/
  raw : RawSample
  /-- `SYNC`, `SYNC[0]` first -/
  sync : List Level
  /-- `STATE` -/
  stateReg : LogicalWord
  /-- `DONE` -/
  done : Level
  deriving DecidableEq, Repr

/-- The registers of a state. -/
def registersOf (s : State) : Registers where
  phase := s.phase
  tcnt := s.tcnt
  bidx := s.bidx
  raw := s.raw
  sync := s.sync
  stateReg := s.stateReg
  done := s.done

/-- R13, R109: the step function in one piece, every register's next value written at once from the registers before
the edge and the three inputs. R118's draw is one more input, "a free input of the step": `some` level where the sample is a draw and `none`
where it is `dsamp`. R73 gives the row of a reserved phase (notes/assumptions/4.md); a count takes `tcnt + 1` at the width of the
register (notes/assumptions/9.md). -/
def registerStep (T : Nat) (r : Registers) (rst start data : Level) (draw : Option Level) : Registers :=
  let dsamp : Level := if r.sync.length = 0 then data else r.sync.getD (r.sync.length - 1) data
  let sample : Level := draw.getD dsamp
  let shifted : List Level := if r.sync.length = 0 then [] else data :: r.sync.take (r.sync.length - 1)
  let counted : Nat := (r.tcnt + 1) % 2 ^ Config.tcntWidth T
  if rst then
    { phase := .idle, tcnt := 0, bidx := 0, raw := 0, sync := List.replicate r.sync.length true,
      stateReg := 0, done := false }
  else
    match r.phase with
    | .idle =>
      if start then
        { r with phase := .latch, tcnt := 0, bidx := 0, raw := 0, done := false, sync := shifted }
      else { r with done := false, sync := shifted }
    | .latch =>
      if r.tcnt = 2 * T - 1 then { r with phase := .settle, tcnt := 0, done := false, sync := shifted }
      else { r with tcnt := counted, done := false, sync := shifted }
    | .settle =>
      if r.tcnt = T - 1 then { r with phase := .clklo, tcnt := 0, done := false, sync := shifted }
      else { r with tcnt := counted, done := false, sync := shifted }
    | .clklo =>
      if r.tcnt = T - 1 then
        { r with phase := .clkhi, tcnt := 0, done := false, sync := shifted,
                 raw := if sample then r.raw &&& ~~~(1#17 <<< r.bidx.val) else r.raw ||| (1#17 <<< r.bidx.val) }
      else { r with tcnt := counted, done := false, sync := shifted }
    | .clkhi =>
      if r.tcnt = T - 1 then
        if r.bidx.val = 16 then
          { r with phase := .idle, tcnt := 0, done := true, sync := shifted, stateReg := decodeRaw r.raw }
        else
          { r with phase := .clklo, tcnt := 0, done := false, sync := shifted, bidx := r.bidx + 1 }
      else { r with tcnt := counted, done := false, sync := shifted }
    | .reserved _ => { r with phase := .idle, tcnt := 0, done := false, sync := shifted }

end Sys2Proof.Machine
end

