-- ==== Sys2Proof/Certificates/Slice0/Obligations.lean ====
section
/-! DEFINITION. The statements for the provers. Each docstring names the rule of spec/ it formalises, or the sections it
is derived from. A run from `s` numbers its edges from 0; cycle `c` is the state after edge `c`, `afterEdges (c + 1) s`. -/

open Sys2Proof Sys2Proof.Machine

/-! ## Selectors and operations -/

/-- R74: the opcode map, row by row as match and mask, the reserved phases, and exactly one row for every selector
with `rst == 1` or a named phase; `start` is a don't-care outside `IDLE`. -/
def Obligations.SelectorMapOfTheOpcodeTable : Prop :=
  (∀ s : State, StartIsIgnored s) ∧ ∀ w : Sel,
    (w &&& 0x10#5 = 0x10#5 → decodeSel w = .ok (.reset (w.getLsbD 3) (Phase.ofBits (w.extractLsb' 0 3)))) ∧
    (w &&& 0x1F#5 = 0x00#5 → decodeSel w = .ok .idleNop) ∧
    (w &&& 0x1F#5 = 0x08#5 → decodeSel w = .ok .readStart) ∧
    (w &&& 0x17#5 = 0x01#5 → decodeSel w = .ok (.latchStep (w.getLsbD 3))) ∧
    (w &&& 0x17#5 = 0x02#5 → decodeSel w = .ok (.settleStep (w.getLsbD 3))) ∧
    (w &&& 0x17#5 = 0x03#5 → decodeSel w = .ok (.clkloStep (w.getLsbD 3))) ∧
    (w &&& 0x17#5 = 0x04#5 → decodeSel w = .ok (.clkhiStep (w.getLsbD 3))) ∧
    (w &&& 0x17#5 = 0x05#5 → decodeSel w = .error .p101) ∧
    (w &&& 0x17#5 = 0x06#5 → decodeSel w = .error .p110) ∧
    (w &&& 0x17#5 = 0x07#5 → decodeSel w = .error .p111) ∧
    (w.getLsbD 4 = true ∨ (w.extractLsb' 0 3).toNat ≤ 4 → (selectorRows.filter fun r => r.hits w).length = 1)

/-- Selectors written out bit by bit from the tables of R71, R72 and R74 decode to the operation they stand for. That a selector is one byte
with its five bits lowest, and that a byte with an upper bit set is refused (the last clause), is the model's own choice
(DESIGN CHOICE, notes/assumptions/10.md): the spec gives no byte form. -/
def Obligations.SelectorsWrittenOutDecode : Prop :=
  decodeBytes [0b00010000#8] = .ok (.reset false .idle, []) ∧
  decodeBytes [0b00000000#8] = .ok (.idleNop, []) ∧
  decodeBytes [0b00001000#8] = .ok (.readStart, []) ∧
  decodeBytes [0b00001001#8] = .ok (.latchStep true, []) ∧
  decodeBytes [0b00000010#8] = .ok (.settleStep false, []) ∧
  decodeBytes [0b00000011#8] = .ok (.clkloStep false, []) ∧
  decodeBytes [0b00001100#8] = .ok (.clkhiStep true, []) ∧
  decodeBytes [0b00000101#8] = .error (.reservedPhase .p101) ∧
  decodeBytes [0b00100000#8] = .error (.upperBitsSet 0b00100000#8)

/-- Every well-formed operation, with every operand, decodes from its encoding, whatever bytes follow (30_encoding.md
sections 1 and 2). -/
def Obligations.EncodedOperationsDecodeBack : Prop :=
  ∀ (i : Instr) (rest : List Byte), i.WellFormed →
    (∃ w, encodeSel i = some w ∧ decodeSel w = .ok i) ∧ decodeBytes (encode i ++ rest) = .ok (i, rest)

/-- Whatever the byte decoder accepts is a well-formed operation, and its encoding is the bytes read: no selector bit
is dropped and no two selectors name one operation with the same operands. It rests on the model's own choices (DESIGN CHOICE,
notes/assumptions/10.md): one selector is one byte, a byte with an upper bit set is refused, and the bits that a row's mask leaves out are
operands of the constructor. -/
def Obligations.AcceptedBytesEncodeBack : Prop :=
  ∀ (bs rest : List Byte) (i : Instr), decodeBytes bs = .ok (i, rest) → i.WellFormed ∧ encode i ++ rest = bs

/-- R70: the datapath format has "no selector bits, always active": no bytes encode a datapath operation and none
decode to one. -/
def Obligations.DatapathOperationsAreNeverSelected : Prop :=
  ∀ i : Instr, i.format = .datapath →
    encode i = [] ∧ (∀ w, decodeSel w ≠ .ok i) ∧ ∀ bs rest, decodeBytes bs ≠ .ok (i, rest)

/-! ## The FSM operations -/

/-- R100, RESET: its selectors, all its register writes and its frame, the flags and lines of the next cycle; at a
whole edge it wins over `start_i` and replaces SYNC_SHIFT, whatever phase it interrupts; and the latch pulse of the next
read reloads the controller, wherever its shift register was left. This last clause is about the model's own controller, which captures
its buttons when the strobe falls (DESIGN CHOICE, notes/assumptions/6.md); R100 says only that the pulse reloads it. -/
def Obligations.ResetClearsEveryRegister : Prop :=
  (∀ w : Sel, w &&& 0x10#5 = 0x10#5 → ∃ st ph, decodeSel w = .ok (.reset st ph)) ∧
  (∀ (st : Level) (ph : Phase) (s : State), ∃ t, exec (.reset st ph) s = .next t ∧
    t = { s with phase := .idle, tcnt := 0, bidx := 0, raw := 0x00000, stateReg := 0x0000, done := false,
                 sync := t.sync } ∧
    t.sync.length = s.sync.length ∧ (∀ b ∈ t.sync, b = true) ∧
    busyO t = false ∧ doneO t = false ∧ presentFlag t = false ∧ strobeO t = false ∧ clockO t = true) ∧
  (∀ s t u : State, (hostPins s).rst = true → exec (.reset (hostPins s).start s.phase) s = .next t →
    step s = .next u → registersOf u = registersOf t) ∧
  (∀ (c : Controller) (before after : Lines) (n : Nat), Lines.strobeFell before after = true → c.moving = 0 →
    (controllerNext c before after n).captured = c.buttons ∧ (controllerNext c before after n).events = 1)

/-- R101, IDLE_NOP: its selector, its one write and its frame, the flags and lines; and for as long as `rst` and
`start_i` stay 0 in `IDLE`, the last result, `RAW`, `bidx` and `tcnt` stay. -/
def Obligations.IdleNopClearsDoneOnly : Prop :=
  (∀ w : Sel, w &&& 0x1F#5 = 0x00#5 → decodeSel w = .ok .idleNop) ∧
  (∀ s : State, exec .idleNop s = .next { s with done := false }) ∧
  (∀ s t : State, s.phase = .idle → exec .idleNop s = .next t →
    doneO t = false ∧ busyO t = false ∧ strobeO t = false ∧ clockO t = true) ∧
  (∀ (n : Nat) (s : State), s.phase = .idle → (∀ e, e < n → hostAt s e = { rst := false, start := false }) →
    (afterEdges n s).phase = .idle ∧ stateO (afterEdges n s) = stateO s ∧ (afterEdges n s).raw = s.raw ∧
    (afterEdges n s).bidx = s.bidx ∧ (afterEdges n s).tcnt = s.tcnt ∧ (0 < n → doneO (afterEdges n s) = false))

/-- R102, READ_START: its selector, its writes and its frame (`STATE` among it), the flags, the strobe, and that a
`start_i` in the cycle of `done_o` is accepted. -/
def Obligations.ReadStartOpensARead : Prop :=
  (∀ w : Sel, w &&& 0x1F#5 = 0x08#5 → decodeSel w = .ok .readStart) ∧
  (∀ s : State, ∃ t, exec .readStart s = .next t ∧
    t = { s with phase := .latch, tcnt := 0, bidx := 0, raw := 0x00000, done := false } ∧
    busyO t = true ∧ doneO t = false ∧ stateO t = stateO s ∧ strobeO t = true) ∧
  (∀ s : State, s.phase = .idle → hostPins s = { rst := false, start := true } → doneO s = true →
    decodeSel (selector s) = .ok .readStart)

/-- R103's pseudocode, LATCH_STEP, with its frame: at `tcnt == 2*T - 1` the settle phase begins; otherwise the counter goes
up at its width, which never wraps below the terminal count. `start_i` is ignored. Beyond the terminal count, where no run comes, that `tcnt + 1` is taken
modulo `2^WT` is the model's reading of the register's width (DEDUCED, notes/assumptions/9.md). -/
def Obligations.LatchStepHoldsThenSettles : Prop :=
  ∀ (st : Level) (s : State),
    (s.tcnt = 2 * s.T.cycles - 1 →
      exec (.latchStep st) s = .next { s with phase := .settle, tcnt := 0, done := false }) ∧
    (s.tcnt ≠ 2 * s.T.cycles - 1 →
      exec (.latchStep st) s =
        .next { s with tcnt := (s.tcnt + 1) % 2 ^ Config.tcntWidth s.T.cycles, done := false }) ∧
    (s.tcnt < 2 * s.T.cycles - 1 → (s.tcnt + 1) % 2 ^ Config.tcntWidth s.T.cycles = s.tcnt + 1)

/-- R104's pseudocode, SETTLE_STEP, with its frame: at `tcnt == T - 1` the first clock-low phase begins.
Beyond the terminal count, where no run comes, that `tcnt + 1` is taken modulo `2^WT` is the model's reading of the register's width
(DEDUCED, notes/assumptions/9.md). -/
def Obligations.SettleStepHoldsThenClocks : Prop :=
  ∀ (st : Level) (s : State),
    (s.tcnt = s.T.cycles - 1 →
      exec (.settleStep st) s = .next { s with phase := .clklo, tcnt := 0, done := false }) ∧
    (s.tcnt ≠ s.T.cycles - 1 →
      exec (.settleStep st) s =
        .next { s with tcnt := (s.tcnt + 1) % 2 ^ Config.tcntWidth s.T.cycles, done := false }) ∧
    (s.tcnt < s.T.cycles - 1 → (s.tcnt + 1) % 2 ^ Config.tcntWidth s.T.cycles = s.tcnt + 1)

/-- R105, CLKLO_STEP: its selectors, the sample at the last edge of the hold (bit `bidx` of `RAW` takes the inverse of
`dsamp`, no other bit changes, position 16 like the others), the frame, and the clock line back at 1. Where `2*T < S + 1 + P` the
sample is a draw (R118), and its form, a free value of the edge, is the model's (DESIGN CHOICE, notes/assumptions/3.md). Beyond the terminal
count, where no run comes, that `tcnt + 1` is taken modulo `2^WT` is the model's reading (DEDUCED, notes/assumptions/9.md). -/
def Obligations.ClkloStepSamplesAtTheEndOfTheHold : Prop :=
  (∀ w : Sel, w &&& 0x17#5 = 0x03#5 → decodeSel w = .ok (.clkloStep (w.getLsbD 3))) ∧
  (∀ (st : Level) (s : State), s.tcnt = s.T.cycles - 1 → ∃ t, exec (.clkloStep st) s = .next t ∧
    t = { s with raw := t.raw, phase := .clkhi, tcnt := 0, done := false } ∧ clockO t = true ∧
    ∀ k, k < 17 → t.raw.getLsbD k =
      if k = s.bidx.val then !(if TimingHolds s then dsamp s else Config.freeSample s.edge) else s.raw.getLsbD k) ∧
  (∀ (st : Level) (s : State), s.tcnt ≠ s.T.cycles - 1 →
    exec (.clkloStep st) s =
      .next { s with tcnt := (s.tcnt + 1) % 2 ^ Config.tcntWidth s.T.cycles, done := false }) ∧
  (∀ s : State, s.tcnt < s.T.cycles - 1 → (s.tcnt + 1) % 2 ^ Config.tcntWidth s.T.cycles = s.tcnt + 1)

/-- R106's pseudocode, CLKHI_STEP, with its frame and flags: the next position, or at position 16 the completion, in
which `STATE` takes DECODE of `RAW` and its presence bit is `RAW[16]`. Beyond the terminal count, where no run comes, that `tcnt + 1` is
taken modulo `2^WT` is the model's reading of the register's width (DEDUCED, notes/assumptions/9.md). -/
def Obligations.ClkhiStepMovesOnOrCompletes : Prop :=
  ∀ (st : Level) (s : State),
    (s.tcnt = s.T.cycles - 1 → s.bidx.val = 16 → ∃ t, exec (.clkhiStep st) s = .next t ∧
      t = { s with tcnt := 0, stateReg := decodeRaw s.raw, done := true, phase := .idle } ∧
      doneO t = true ∧ busyO t = false ∧ presentFlag t = s.raw.getLsbD 16) ∧
    (s.tcnt = s.T.cycles - 1 → s.bidx.val ≠ 16 → ∃ t, exec (.clkhiStep st) s = .next t ∧
      t = { s with tcnt := 0, bidx := t.bidx, phase := .clklo, done := false } ∧
      t.bidx.val = s.bidx.val + 1 ∧ clockO t = false) ∧
    (s.tcnt ≠ s.T.cycles - 1 →
      exec (.clkhiStep st) s =
        .next { s with tcnt := (s.tcnt + 1) % 2 ^ Config.tcntWidth s.T.cycles, done := false }) ∧
    (s.tcnt < s.T.cycles - 1 → (s.tcnt + 1) % 2 ^ Config.tcntWidth s.T.cycles = s.tcnt + 1)

/-! ## The sampler -/

/-- R107, SYNC_SHIFT: `SYNC[0]` takes `data_i`, `SYNC[k]` takes `SYNC[k-1]`, nothing else changes, and an empty chain
stays empty; it runs at every edge with `rst == 0`, and at a RESET edge RESET's write of all ones stands in its place. -/
def Obligations.SyncShiftMovesTheChain : Prop :=
  (∀ s : State, ∃ t, exec .syncShift s = .next t ∧ t = { s with sync := t.sync } ∧
    t.sync.length = s.sync.length ∧
    ∀ k, k < s.sync.length → t.sync[k]? = if k = 0 then some (dataI s) else s.sync[k - 1]?) ∧
  (∀ s t u : State, (hostPins s).rst = false → exec .syncShift s = .next t → step s = .next u → u.sync = t.sync) ∧
  (∀ s u : State, (hostPins s).rst = true → step s = .next u →
    u.sync.length = s.sync.length ∧ ∀ b ∈ u.sync, b = true)

/-- R108: the sampled level is the pin without a chain, and the chain's last stage with one. -/
def Obligations.SampledLevelIsTheLastStage : Prop :=
  ∀ s : State,
    (s.S = 0 → dsamp s = dataI s) ∧ (s.S ≠ 0 → s.sync[s.S - 1]? = some (dsamp s))

/-- R110 (the spec's derivation from R107 and R108): with no reset on the way, the level sampled at edge `E` is the level
`data_i` had at edge `E - S`. -/
def Obligations.SampledLevelIsSEdgesOld : Prop :=
  ∀ (s : State) (E : Nat), s.S ≤ E → NoResetWithin E s → dsamp (afterEdges E s) = levelAt s (E - s.S)

/-! ## The decode network -/

/-- REMAP: its net takes the mapped word of R140, the OR of the table's entries at the set positions, which is the
spec's wiring; nothing else changes; and the corner cases. That the word is driven into a field of the state, and that the operation writes
this field alone, is the model's choice (DESIGN CHOICE, notes/assumptions/5.md; the network is no state, R43, R152). -/
def Obligations.RemapIsTheFixedWiring : Prop :=
  (∀ s : State, ∃ t m, exec .remap s = .next t ∧ t = { s with nets := { s.nets with mapped := m } } ∧
    m = Config.positions.foldl (fun a i => if s.raw.getLsbD i.val = true then a ||| Config.LUT i else a) 0x0000 ∧
    m.getLsbD 0 = s.raw.getLsbD 16 ∧ m.getLsbD 1 = s.raw.getLsbD 2 ∧ m.getLsbD 2 = s.raw.getLsbD 3 ∧
    m.getLsbD 3 = s.raw.getLsbD 4 ∧ m.getLsbD 4 = s.raw.getLsbD 5 ∧ m.getLsbD 5 = s.raw.getLsbD 6 ∧
    m.getLsbD 6 = s.raw.getLsbD 7 ∧ m.getLsbD 7 = s.raw.getLsbD 8 ∧ m.getLsbD 8 = s.raw.getLsbD 9 ∧
    m.getLsbD 9 = s.raw.getLsbD 0 ∧ m.getLsbD 10 = s.raw.getLsbD 1 ∧ m.getLsbD 11 = s.raw.getLsbD 10 ∧
    m.getLsbD 12 = s.raw.getLsbD 11 ∧ m.getLsbD 13 = false ∧ m.getLsbD 14 = false ∧ m.getLsbD 15 = false) ∧
  remap 0x00000 = 0x0000 ∧ remap 0x1FFFF = 0x1FFF ∧ remap 0x10011 = 0x0209 ∧
  (∀ i : Position, remap (1#17 <<< i.val) = Config.LUT i) ∧
  (∀ i : Position, 12 ≤ i.val → i.val ≤ 15 → remap (1#17 <<< i.val) = 0x0000)

/-- R141, RESOLVE_UD: the source's form and the gates, for every 16-bit value at its input; nothing else changes. That its input
is REMAP's net, and that its output is a field of the state, is the model's wiring (DEDUCED, notes/assumptions/12.md; notes/assumptions/5.md). -/
def Obligations.ResolveUdCancelsUpAndDown : Prop :=
  (∀ s : State, ∃ t out, exec .resolveUd s = .next t ∧ t = { s with nets := { s.nets with ud := out } } ∧
    out = (if ((s.nets.mapped &&& 0x0018#16) ^^^ 0x0018#16) = 0 then s.nets.mapped &&& ~~~0x0018#16
           else s.nets.mapped) ∧
    out.getLsbD 3 = (s.nets.mapped.getLsbD 3 && !s.nets.mapped.getLsbD 4) ∧
    out.getLsbD 4 = (s.nets.mapped.getLsbD 4 && !s.nets.mapped.getLsbD 3) ∧
    ∀ k, k ≠ 3 → k ≠ 4 → out.getLsbD k = s.nets.mapped.getLsbD k) ∧
  resolveUD 0x0019 = 0x0001 ∧ resolveUD 0x0009 = 0x0009

/-- R142, RESOLVE_LR: the source's form and the gates, for every 16-bit value at its input; the up/down pair and every
other bit are untouched; nothing else changes. That its input is RESOLVE_UD's net, and that its output is a field of the state, is the
model's wiring (DEDUCED, notes/assumptions/12.md; notes/assumptions/5.md). -/
def Obligations.ResolveLrCancelsLeftAndRight : Prop :=
  (∀ s : State, ∃ t out, exec .resolveLr s = .next t ∧ t = { s with nets := { s.nets with lr := out } } ∧
    out = (if ((s.nets.ud &&& 0x0060#16) ^^^ 0x0060#16) = 0 then s.nets.ud &&& ~~~0x0060#16 else s.nets.ud) ∧
    out.getLsbD 5 = (s.nets.ud.getLsbD 5 && !s.nets.ud.getLsbD 6) ∧
    out.getLsbD 6 = (s.nets.ud.getLsbD 6 && !s.nets.ud.getLsbD 5) ∧
    ∀ k, k ≠ 5 → k ≠ 6 → out.getLsbD k = s.nets.ud.getLsbD k) ∧
  resolveLR 0x0061 = 0x0001 ∧ resolveLR 0x0029 = 0x0029

/-- R143, PRESENCE_GATE: the value when bit 0 is set and zero otherwise, bit by bit `v[k] & v[0]`; nothing else
changes. That its input is RESOLVE_LR's net, and that its output is a field of the state, is the model's wiring (DEDUCED,
notes/assumptions/12.md; notes/assumptions/5.md). -/
def Obligations.PresenceGateZeroesAnAbsentPad : Prop :=
  (∀ s : State, ∃ t out, exec .presenceGate s = .next t ∧ t = { s with nets := { s.nets with gated := out } } ∧
    (s.nets.lr.getLsbD 0 = true → out = s.nets.lr) ∧ (s.nets.lr.getLsbD 0 = false → out = 0x0000) ∧
    ∀ k, k < 16 → out.getLsbD k = (s.nets.lr.getLsbD k && s.nets.lr.getLsbD 0)) ∧
  presenceGate 0x1FFE = 0x0000 ∧ presenceGate 0x0009 = 0x0009

/-- DECODE: the composition of R144 in the source's order and its equal, gating last; the corner cases and the example;
nothing else changes. That the word is driven into a field of the state, and that the operation writes this field alone, is the model's
choice (DESIGN CHOICE, notes/assumptions/5.md; the network is no state, R43, R152). -/
def Obligations.DecodeIsTheComposition : Prop :=
  (∀ s : State, ∃ t d, exec .decode s = .next t ∧ t = { s with nets := { s.nets with decoded := d } } ∧
    d = decodeRaw s.raw ∧
    d = presenceGate (resolveLR (resolveUD (remap s.raw))) ∧
    ((remap s.raw).getLsbD 0 = false → d = 0x0000) ∧
    ((remap s.raw).getLsbD 0 = true → d = resolveLR (resolveUD (remap s.raw))) ∧
    (s.raw.getLsbD 16 = false → d = 0x0000) ∧ d.getLsbD 0 = s.raw.getLsbD 16 ∧
    d.getLsbD 13 = false ∧ d.getLsbD 14 = false ∧ d.getLsbD 15 = false) ∧
  (∀ r r' : RawSample, (∀ k, k < 17 → k < 12 ∨ 15 < k → r.getLsbD k = r'.getLsbD k) → decodeRaw r = decodeRaw r') ∧
  decodeRaw 0x1FFFF = 0x1F87 ∧ decodeRaw 0x10010 = 0x0009

/-- R145 (the spec's derivation): one gate equation per bit of DECODE. -/
def Obligations.DecodeGateEquations : Prop :=
  ∀ r : RawSample,
    (decodeRaw r).getLsbD 0 = r.getLsbD 16 ∧
    (decodeRaw r).getLsbD 1 = (r.getLsbD 16 && r.getLsbD 2) ∧
    (decodeRaw r).getLsbD 2 = (r.getLsbD 16 && r.getLsbD 3) ∧
    (decodeRaw r).getLsbD 3 = (r.getLsbD 16 && r.getLsbD 4 && !r.getLsbD 5) ∧
    (decodeRaw r).getLsbD 4 = (r.getLsbD 16 && r.getLsbD 5 && !r.getLsbD 4) ∧
    (decodeRaw r).getLsbD 5 = (r.getLsbD 16 && r.getLsbD 6 && !r.getLsbD 7) ∧
    (decodeRaw r).getLsbD 6 = (r.getLsbD 16 && r.getLsbD 7 && !r.getLsbD 6) ∧
    (decodeRaw r).getLsbD 7 = (r.getLsbD 16 && r.getLsbD 8) ∧
    (decodeRaw r).getLsbD 8 = (r.getLsbD 16 && r.getLsbD 9) ∧
    (decodeRaw r).getLsbD 9 = (r.getLsbD 16 && r.getLsbD 0) ∧
    (decodeRaw r).getLsbD 10 = (r.getLsbD 16 && r.getLsbD 1) ∧
    (decodeRaw r).getLsbD 11 = (r.getLsbD 16 && r.getLsbD 10) ∧
    (decodeRaw r).getLsbD 12 = (r.getLsbD 16 && r.getLsbD 11) ∧
    (decodeRaw r).getLsbD 13 = false ∧ (decodeRaw r).getLsbD 14 = false ∧ (decodeRaw r).getLsbD 15 = false

/-- R148 (the spec's derivation): the values of DECODE are exactly the words that satisfy (a) to (d). -/
def Obligations.DecodedWordsAreExactlyTheLegalOnes : Prop :=
  ∀ d : LogicalWord, LegalLogical d ↔ ∃ r : RawSample, decodeRaw r = d

/-- R147 (the spec's derivation): after REMAP, every order of the three operations gives the same word. -/
def Obligations.OrderOfCancellationAndGateDoesNotMatter : Prop :=
  ∀ v : LogicalWord,
    resolveLR (resolveUD v) = resolveUD (resolveLR v) ∧
    presenceGate (resolveUD v) = resolveUD (presenceGate v) ∧
    presenceGate (resolveLR v) = resolveLR (presenceGate v)

/-- R149 and 95_test_vectors.md SRC-2: for EVERY pair mask, cancelling is idempotent and never leaves the whole pair set; the gate is
idempotent. -/
def Obligations.CancellationIsIdempotentAndNeverLeavesThePair : Prop :=
  ∀ v pm : LogicalWord,
    resolve (resolve v pm) pm = resolve v pm ∧ (pm ≠ 0 → resolve v pm &&& pm ≠ pm) ∧
    presenceGate (presenceGate v) = presenceGate v

/-- R150 (the spec's derivation): the source's accumulator, which ORs the table's entry at each position that reads low, equals REMAP of
the raw sample assembled position by position from 0, and its bit 0 is `RAW[16]`. -/
def Obligations.AccumulatorAgreesWithRemap : Prop :=
  ∀ level : Position → Level,
    let acc : LogicalWord := Config.positions.foldl (fun a i => if level i = false then a ||| Config.LUT i else a) 0
    let raw : RawSample := Config.positions.foldl (fun r i => setBit r i (!level i)) 0
    acc = remap raw ∧ acc.getLsbD 0 = raw.getLsbD 16

/-! ## One edge -/

/-- R109, R13, R75: when the selector decodes to `i`, the step is `exec i` at that state, and then SYNC_SHIFT (not at a
RESET edge), the settling of the decode network, and the environment moving past the edge. The values of the registers are the rules';
these clauses are the model's: the fields `nets` (DESIGN CHOICE, notes/assumptions/5.md), `hostIn` and `edge` (DESIGN CHOICE,
notes/assumptions/18.md), `pad` by `padNext` (DESIGN CHOICE, notes/assumptions/6.md), and the parts of an edge one after another
(DEDUCED, notes/assumptions/16.md). -/
def Obligations.StepRunsTheDecodedOperation : Prop :=
  ∀ (s t : State) (i : Instr), decodeSel (selector s) = .ok i → exec i s = .next t →
    step s = .next { t with
      sync := if (hostPins s).rst then t.sync else shiftIn (dataI s) t.sync
      nets := settledNets t.raw
      hostIn := s.hostIn.drop 1
      pad := padNext s.pad (linesOf s) (linesOf t) s.edge
      edge := s.edge + 1 }

/-- R109 with R13 (the spec's derivation): the step, put together from the operations one after another, refines the
one-piece step function in which every register's next value is written at once from the registers before the edge. Three things in that
function are not R109's: `tcnt + 1` is taken modulo `2^WT` in every state (DEDUCED, notes/assumptions/9.md), a reserved phase has the row that
R73 gives it (notes/assumptions/4.md), and where R203(a) fails the sample is a draw of the edge (R118, notes/assumptions/3.md). -/
def Obligations.StepRefinesTheOnePieceFunction : Prop :=
  ∀ s : State, ∃ t, step s = .next t ∧ t.T = s.T ∧
    registersOf t =
      registerStep s.T.cycles (registersOf s) (hostPins s).rst (hostPins s).start (dataI s)
        (if TimingHolds s then none else some (Config.freeSample s.edge))

/-- R170: no fault exists, every operation is total on every state, and the block never stops. -/
def Obligations.BlockNeverStops : Prop :=
  IsEmpty Fault ∧ (∀ (i : Instr) (s : State), ∃ t, exec i s = .next t) ∧
  (∀ s : State, ∃ t, step s = .next t) ∧
  ∀ (n : Nat) (s : State), Sys2Proof.core.run n s = .next (afterEdges n s)

/-- R73's recovery (the model keeps the reserved encodings representable, notes/assumptions/4.md): the decoder refuses the
selector, the lines are idle, the edge writes `phase`, `tcnt` and `DONE` and leaves `RAW`, `bidx` and `STATE`; and no
step ends in a reserved phase. -/
def Obligations.ReservedPhaseRecoversToIdle : Prop :=
  (∀ (s : State) (r : ReservedPhase), s.phase = .reserved r → (hostPins s).rst = false →
    decodeSel (selector s) = .error r ∧ strobeO s = false ∧ clockO s = true ∧
    ∃ t, step s = .next t ∧ t.phase = .idle ∧ t.tcnt = 0 ∧ t.done = false ∧ t.raw = s.raw ∧ t.bidx = s.bidx ∧
      t.stateReg = s.stateReg ∧ t.T = s.T) ∧
  (∀ s t : State, step s = .next t → t.phase.isNamed = true)

/-- R45, R190, R191: one edge with `rst == 1`, from ANY state of the machine, leaves every register and every output
at its reset value. -/
def Obligations.OneResetEdgeFixesEveryRegister : Prop :=
  ∀ s : State, (hostPins s).rst = true → ∃ t, step s = .next t ∧
    t.phase = .idle ∧ t.tcnt = 0 ∧ t.bidx = 0 ∧ t.raw = 0x00000 ∧ t.sync.length = s.sync.length ∧
    (∀ b ∈ t.sync, b = true) ∧ t.stateReg = 0x0000 ∧ t.done = false ∧
    stateO t = 0x0000 ∧ doneO t = false ∧ busyO t = false ∧ strobeO t = false ∧ clockO t = true ∧ t.T = s.T

/-- R174: RESET wins; otherwise in `IDLE` `start_i` chooses; otherwise the phase's own operation runs and does the same
whatever `start_i` is; a completion and a request do not collide: the completing edge is a CLKHI_STEP and the request is taken at
the next edge. -/
def Obligations.PriorityOfSimultaneousInputs : Prop :=
  (∀ s : State, (hostPins s).rst = true → ∃ st ph, decodeSel (selector s) = .ok (.reset st ph)) ∧
  (∀ s : State, (hostPins s).rst = false → s.phase = .idle →
    decodeSel (selector s) = .ok (if (hostPins s).start then .readStart else .idleNop)) ∧
  (∀ s : State, (hostPins s).rst = false → s.phase = .latch →
    decodeSel (selector s) = .ok (.latchStep (hostPins s).start)) ∧
  (∀ s : State, (hostPins s).rst = false → s.phase = .settle →
    decodeSel (selector s) = .ok (.settleStep (hostPins s).start)) ∧
  (∀ s : State, (hostPins s).rst = false → s.phase = .clklo →
    decodeSel (selector s) = .ok (.clkloStep (hostPins s).start)) ∧
  (∀ s : State, (hostPins s).rst = false → s.phase = .clkhi →
    decodeSel (selector s) = .ok (.clkhiStep (hostPins s).start)) ∧
  (∀ s : State, StartIsIgnored s) ∧
  (∀ s : State, s.phase = .clkhi → s.tcnt = s.T.cycles - 1 → s.bidx.val = 16 →
    hostAt s 0 = { rst := false, start := true } → hostAt s 1 = { rst := false, start := true } →
    doneO (afterEdges 1 s) = true ∧ (afterEdges 1 s).phase = .idle ∧
    decodeSel (selector (afterEdges 1 s)) = .ok .readStart ∧ (afterEdges 2 s).phase = .latch)

/-- R22, R23, R26: the lines and `busy_o` are functions of the phase alone: the strobe is 1 in `LATCH` only, the clock
is 0 in `CLKLO` only, and the block is busy outside `IDLE`. -/
def Obligations.LinesAreFunctionsOfThePhase : Prop :=
  (∀ s : State, (strobeO s = true ↔ s.phase = .latch) ∧ (clockO s = false ↔ s.phase = .clklo) ∧
    (busyO s = false ↔ s.phase = .idle)) ∧
  (∀ s t : State, s.phase = t.phase → strobeO s = strobeO t ∧ clockO s = clockO t ∧ busyO s = busyO t)

/-- R202, R25: where the phase is not `IDLE`, a step answers the same state whether `start_i` is 1 or 0: the request has
no effect and is not remembered. -/
def Obligations.RequestWhileBusyIsDropped : Prop :=
  ∀ (s : State) (r : Level) (later : List HostPins), s.phase ≠ .idle →
    step { s with hostIn := { rst := r, start := true } :: later } =
      step { s with hostIn := { rst := r, start := false } :: later }

/-- R38, R27: every step writes 0 to `DONE`, except the completing step, which writes 1. -/
def Obligations.DoneIsSetByTheCompletingStepOnly : Prop :=
  ∀ s t : State, step s = .next t →
    (t.done = true ↔
      (hostPins s).rst = false ∧ s.phase = .clkhi ∧ s.tcnt = s.T.cycles - 1 ∧ s.bidx.val = 16)

/-- R37, R54: `STATE` is written only by RESET and at the completing edge, where all of it takes DECODE of the complete
raw sample; at every other edge it keeps its value. -/
def Obligations.StateChangesOnlyAtCompletion : Prop :=
  ∀ s t : State, step s = .next t →
    t.stateReg =
      if (hostPins s).rst = true then 0x0000
      else if s.phase = .clkhi ∧ s.tcnt = s.T.cycles - 1 ∧ s.bidx.val = 16 then decodeRaw s.raw
      else s.stateReg

/-- R35, R78: `RAW` is cleared by RESET and READ_START, takes the sample in the one bit `bidx` at the last edge of a
clock-low hold, and otherwise keeps every bit: "Nothing is shifted". The sample is `dsamp`, or a draw where R203(a) fails (R118; its form is the
model's, notes/assumptions/3.md). -/
def Obligations.RawTakesOneBitAtATime : Prop :=
  ∀ s t : State, step s = .next t → ∀ k, k < 17 →
    t.raw.getLsbD k =
      if (hostPins s).rst = true then false
      else if s.phase = .idle ∧ (hostPins s).start = true then false
      else if s.phase = .clklo ∧ s.tcnt = s.T.cycles - 1 ∧ k = s.bidx.val then
        !(if TimingHolds s then dsamp s else Config.freeSample s.edge)
      else s.raw.getLsbD k

/-- R75, R152: after every step, from any state, the nets of the decode network show the values of the new `RAW`, and the
gated word is the decoded one. The nets are the model's own fields (DESIGN CHOICE, notes/assumptions/5.md). -/
def Obligations.EveryStepSettlesTheDecodeNetwork : Prop :=
  ∀ s t : State, step s = .next t → NetsSettled t ∧ t.nets.gated = t.nets.decoded

/-- R41, R178, D29: no number of edges changes `T` or the depth of the synchronizer; nor the environment's `P` (R9). -/
def Obligations.BuildParametersNeverChange : Prop :=
  ∀ (n : Nat) (s : State), (afterEdges n s).T = s.T ∧ (afterEdges n s).S = s.S ∧ (afterEdges n s).P = s.P

/-! ## Invariants -/

/-- R44, R45: the state after reset meets the invariants and its nets are settled, for every build and `P`; so does the
state after any reset edge. The clauses `Inv` are R44's and R45's; the clauses `NetsSettled` are the model's choice: the fields `nets`
(DESIGN CHOICE, notes/assumptions/5.md) and their value in `State.resetWith` (DESIGN CHOICE, notes/assumptions/18.md). -/
def Obligations.ResetMeetsTheInvariants : Prop :=
  (∀ (p : BuildParams) (P : Nat), Inv (State.resetWith p P) ∧ NetsSettled (State.resetWith p P)) ∧
  (∀ s t : State, (hostPins s).rst = true → step s = .next t → Inv t ∧ NetsSettled t)

/-- R44 (the spec's derivation): every step keeps the invariants. -/
def Obligations.EveryStepKeepsTheInvariants : Prop :=
  ∀ s t : State, Inv s → step s = .next t → Inv t

/-- R77, R33: `WT = ceil(log2(2*T))`, at least 1, and no count of a state that meets the invariants needs more bits or
wraps. -/
def Obligations.CounterFitsItsWidth : Prop :=
  (∀ T : Delay, 1 ≤ Config.tcntWidth T.cycles ∧ 2 * T.cycles ≤ 2 ^ Config.tcntWidth T.cycles ∧
    2 ^ (Config.tcntWidth T.cycles - 1) < 2 * T.cycles) ∧
  (∀ s : State, Inv s → s.tcnt < 2 ^ Config.tcntWidth s.T.cycles)

/-- R172: a configuration builds exactly when `T >= 1` and `S >= 0`, and then has those parameters. -/
def Obligations.OutOfRangeParametersDoNotBuild : Prop :=
  ∀ p : RawParams,
    (p.WellFormed → ∃ b, p.build = .ok b ∧ (b.T.cycles : Int) = p.delayCycles ∧ (b.S : Int) = p.syncStages) ∧
    (¬p.WellFormed → ∃ e, p.build = .error e)

/-! ## Reads -/

/-- R112, R178: a busy state that meets the invariants is one edge nearer to the end of its read after every edge without
reset, and is at the end exactly when `done_o` is 1 and the phase is `IDLE`. -/
def Obligations.EveryEdgeBringsAReadNearerToItsEnd : Prop :=
  ∀ s t : State, Inv s → busyO s = true → (hostPins s).rst = false → step s = .next t →
    edgesLeft t + 1 = edgesLeft s ∧ (edgesLeft t = 0 ↔ doneO t = true ∧ t.phase = .idle)

/-- R112 (the spec's derivation): the schedule of one read, cycle by cycle, for every `T`: phase, position, counter,
lines and `busy_o`, whatever `start_i` and `data_i` do. -/
def Obligations.ReadFollowsTheSchedule : Prop :=
  ∀ s : State, AcceptsRead s → NoResetWithin (37 * s.T.cycles + 1) s → ∀ c, c ≤ 37 * s.T.cycles →
    let T := s.T.cycles
    let u := afterEdges (c + 1) s
    (c < 2 * T → u.phase = .latch ∧ u.tcnt = c ∧ u.bidx.val = 0 ∧
      strobeO u = true ∧ clockO u = true ∧ busyO u = true) ∧
    (2 * T ≤ c → c < 3 * T → u.phase = .settle ∧ u.tcnt = c - 2 * T ∧ u.bidx.val = 0 ∧
      strobeO u = false ∧ clockO u = true ∧ busyO u = true) ∧
    (∀ i, i < 17 → (3 + 2 * i) * T ≤ c → c < (4 + 2 * i) * T →
      u.phase = .clklo ∧ u.tcnt = c - (3 + 2 * i) * T ∧ u.bidx.val = i ∧
      strobeO u = false ∧ clockO u = false ∧ busyO u = true) ∧
    (∀ i, i < 17 → (4 + 2 * i) * T ≤ c → c < (5 + 2 * i) * T →
      u.phase = .clkhi ∧ u.tcnt = c - (4 + 2 * i) * T ∧ u.bidx.val = i ∧
      strobeO u = false ∧ clockO u = true ∧ busyO u = true) ∧
    (c = 37 * T → u.phase = .idle ∧ u.tcnt = 0 ∧ u.bidx.val = 16 ∧
      strobeO u = false ∧ clockO u = true ∧ busyO u = false)

/-- R55, R58, R113: the line events of one read: the strobe rises in cycle 0 and falls in cycle `2T`, the clock falls in the
cycles `(3+2i)T` and rises in the cycles `(4+2i)T` for the seventeen positions `i`, and at no other cycle. -/
def Obligations.LineEventsOfARead : Prop :=
  ∀ s : State, AcceptsRead s → NoResetWithin (37 * s.T.cycles + 1) s → ∀ c, c ≤ 37 * s.T.cycles →
    let T := s.T.cycles
    let before := linesOf (afterEdges c s)
    let after := linesOf (afterEdges (c + 1) s)
    (Lines.strobeRose before after = true ↔ c = 0) ∧
    (Lines.strobeFell before after = true ↔ c = 2 * T) ∧
    ((before.clock = true ∧ after.clock = false) ↔ ∃ i, i < 17 ∧ c = (3 + 2 * i) * T) ∧
    (Lines.clockRose before after = true ↔ ∃ i, i < 17 ∧ c = (4 + 2 * i) * T)

/-- R57, R178, R200: during the `37*T` busy cycles of a read `state_o` still shows the old result and `done_o` is 0; in cycle `37*T` the
block is idle, `done_o` is 1, and `state_o` is DECODE of the raw sample, all together. -/
def Obligations.ReadCompletesAfterThirtySevenT : Prop :=
  ∀ s : State, AcceptsRead s → NoResetWithin (37 * s.T.cycles + 1) s →
    (∀ c, c < 37 * s.T.cycles →
      busyO (afterEdges (c + 1) s) = true ∧ doneO (afterEdges (c + 1) s) = false ∧
      stateO (afterEdges (c + 1) s) = stateO s) ∧
    busyO (afterEdges (37 * s.T.cycles + 1) s) = false ∧ doneO (afterEdges (37 * s.T.cycles + 1) s) = true ∧
    stateO (afterEdges (37 * s.T.cycles + 1) s) = decodeRaw (rawO (afterEdges (37 * s.T.cycles + 1) s))

/-- R110, R112, R201: in every cycle of a read, bit `i` of `raw_o` is 0 until edge `(4+2i)*T` and from then on the
inverse of the level `data_i` had at edge `(4+2i)*T - S`, or, where R203(a) fails, of the draw of edge `(4+2i)*T` (R118; the form of the
draw is the model's, notes/assumptions/3.md). -/
def Obligations.RawFillsPositionByPosition : Prop :=
  ∀ s : State, AcceptsRead s → NoResetWithin (37 * s.T.cycles + 1) s →
    ∀ c, c ≤ 37 * s.T.cycles → ∀ i, i < 17 →
      (rawO (afterEdges (c + 1) s)).getLsbD i =
        (decide ((4 + 2 * i) * s.T.cycles ≤ c) &&
          !(if TimingHolds s then levelAt s ((4 + 2 * i) * s.T.cycles - s.S)
            else Config.freeSample (s.edge + (4 + 2 * i) * s.T.cycles)))

/-- R117 (the spec's derivation): in an environment that meets the contract R116, with `2*T >= S + 1 + P`, a read without
reset leaves the buttons in `RAW[15:0]`, presence in `RAW[16]` and DECODE of it in `STATE`; with no controller and the line
pulled high it leaves zero. -/
def Obligations.ReadReturnsTheButtons : Prop :=
  ∀ (s : State) (b : ButtonVector), AcceptsRead s → NoResetWithin (37 * s.T.cycles + 1) s → TimingHolds s →
    let t := afterEdges (37 * s.T.cycles + 1) s
    (PresentsButtons s b (37 * s.T.cycles + 1) →
      (∀ i, i < 16 → t.raw.getLsbD i = b.getLsbD i) ∧ t.raw.getLsbD 16 = true ∧ t.stateReg = decodeRaw t.raw) ∧
    (PulledHigh s (37 * s.T.cycles + 1) → t.raw = 0x00000 ∧ t.stateReg = 0x0000)

/-- R116, R117: closed loop. With the connected controller of `Machine.Pad` at the data pin, `P` within R203(a), and its buttons
still, a read returns exactly those buttons, whatever the controller had captured before. The controller is the
model's own form of the contract (notes/assumptions/6.md). -/
def Obligations.ConnectedControllerIsReadCorrectly : Prop :=
  ∀ (s : State) (c : Controller), s.pad = .connected c → AcceptsRead s →
    NoResetWithin (37 * s.T.cycles + 1) s → TimingHolds s →
    let t := afterEdges (37 * s.T.cycles + 1) s
    (∀ i, i < 16 → t.raw.getLsbD i = c.buttons.getLsbD i) ∧ t.raw.getLsbD 16 = true ∧
    t.stateReg.getLsbD 0 = true ∧ t.stateReg = decodeRaw t.raw

/-- R118, R172, R203(a) and configuration C of 95_test_vectors.md: where `2*T < S + 1 + P`, every bit that a read leaves in `RAW` is a draw,
"any bit, 0 or 1", whatever drives the pin and whatever the synchronizer held (a reset just before the read among it); two positions take the
draws of two edges; the read itself runs its course. How the draw is written, a free value applied to the number of the edge, is the
model's choice (notes/assumptions/3.md). -/
def Obligations.SamplesOutsideTheTimingAreDraws : Prop :=
  ∀ s : State, ¬TimingHolds s → AcceptsRead s → NoResetWithin (37 * s.T.cycles + 1) s →
    let t := afterEdges (37 * s.T.cycles + 1) s
    (∀ i, i < 17 → t.raw.getLsbD i = !Config.freeSample (s.edge + (4 + 2 * i) * s.T.cycles)) ∧
    (∀ i j, i ≠ j → s.edge + (4 + 2 * i) * s.T.cycles ≠ s.edge + (4 + 2 * j) * s.T.cycles) ∧
    t.stateReg = decodeRaw t.raw ∧ doneO t = true

/-- R119, R171 and vector DEC-11: an absent controller on a pulled-up line is a normal outcome, all zero; a line stuck low reads as
present with every button pressed and decodes to `0x1F87`; the values hold with R203(a), and the read completes in either case. -/
def Obligations.AbsentAndStuckLowPads : Prop :=
  ∀ s : State, AcceptsRead s → NoResetWithin (37 * s.T.cycles + 1) s →
    let t := afterEdges (37 * s.T.cycles + 1) s
    (TimingHolds s → s.pad = .disconnected → t.raw = 0x00000 ∧ t.stateReg = 0x0000) ∧
    (TimingHolds s → s.pad = .stuckLow → t.raw = 0x1FFFF ∧ t.stateReg = 0x1F87) ∧
    doneO t = true ∧ t.phase = .idle

/-- R114: a read cannot be interrupted. Two busy states at the same place of the protocol sequence, whatever their other
registers, host requests and data lines, are at the same place after every number of edges without reset up to the
end of the read. -/
def Obligations.SequenceOfAReadIsNotInterruptible : Prop :=
  ∀ s s' : State, Inv s → Inv s' → s.T = s'.T → s.phase = s'.phase → s.tcnt = s'.tcnt → s.bidx = s'.bidx →
    ∀ n, n ≤ edgesLeft s → NoResetWithin n s → NoResetWithin n s' →
      (afterEdges n s).phase = (afterEdges n s').phase ∧ (afterEdges n s).tcnt = (afterEdges n s').tcnt ∧
      (afterEdges n s).bidx = (afterEdges n s').bidx ∧
      strobeO (afterEdges n s) = strobeO (afterEdges n s') ∧ clockO (afterEdges n s) = clockO (afterEdges n s')

/-- R204 (the spec's derivation): with `start_i` held at 1 a read is accepted every `37*T + 1` edges, and the block is
idle for exactly one cycle in between. -/
def Obligations.BackToBackReads : Prop :=
  ∀ (s : State) (m : Nat), s.phase = .idle →
    (∀ e, e ≤ m * (37 * s.T.cycles + 1) → hostAt s e = { rst := false, start := true }) →
    (afterEdges (m * (37 * s.T.cycles + 1)) s).phase = .idle ∧
    (0 < m → doneO (afterEdges (m * (37 * s.T.cycles + 1)) s) = true) ∧
    decodeSel (selector (afterEdges (m * (37 * s.T.cycles + 1)) s)) = .ok .readStart ∧
    (afterEdges (m * (37 * s.T.cycles + 1) + 1) s).phase = .latch ∧
    ∀ k, k < m → ∀ c, c < 37 * s.T.cycles → busyO (afterEdges (k * (37 * s.T.cycles + 1) + c + 1) s) = true

/-- What the synchronizer holds when a read starts, its reset value among it, cannot be observed in the result. In a build with R203(a)
this is R191 (the spec's derivation): the chain is refilled before the first sample. In a build without R203(a) it is the model's choice and
no rule of the spec: every sample is a draw, and the model's draw depends on the number of the edge alone and not on the chain, so the two
runs share it (DESIGN CHOICE, notes/assumptions/3.md, unsafe for a claim that compares two runs). -/
def Obligations.SynchronizerContentsAreUnobservable : Prop :=
  ∀ (s : State) (chain : List Level), AcceptsRead s → NoResetWithin (37 * s.T.cycles + 1) s →
    chain.length = s.sync.length →
    ∀ c, c ≤ 37 * s.T.cycles →
      rawO (afterEdges (c + 1) { s with sync := chain }) = rawO (afterEdges (c + 1) s) ∧
      stateO (afterEdges (c + 1) { s with sync := chain }) = stateO (afterEdges (c + 1) s)

/-- R87, R178: `WAIT_DONE`, in a busy state that meets the invariants, reaches the cycle in which `done_o == 1`, after at most
`37*T` edges. -/
def Obligations.WaitDoneReachesTheCompletion : Prop :=
  ∀ s : State, Inv s → busyO s = true → ∃ t, runLine .waitDone s = some t ∧ doneO t = true ∧ busyO t = false ∧
    edgesLeft s ≤ 37 * s.T.cycles
end

