-- ==== Sys2Proof/Laws/Decode.lean ====
section
/-! SUPPORT. The parts of the selector: the phase bits name every phase exactly once, and a selector's fields read
back what it was formed from. -/

namespace Sys2Proof

@[simp] theorem Phase.ofBits_enc (p : Phase) : Phase.ofBits p.enc = p := by
  rcases p with _ | _ | _ | _ | _ | r
  case reserved => cases r <;> rfl
  all_goals rfl

theorem Phase.enc_ofBits : ∀ b : BitVec 3, (Phase.ofBits b).enc = b := by decide

@[simp] theorem Sel_rst_selectorOf (r st : Level) (p : Phase) : Sel.rst (selectorOf r st p) = r := by
  rcases p with _ | _ | _ | _ | _ | q
  case reserved => cases q <;> cases r <;> cases st <;> rfl
  all_goals cases r <;> cases st <;> rfl

@[simp] theorem Sel_start_selectorOf (r st : Level) (p : Phase) : Sel.start (selectorOf r st p) = st := by
  rcases p with _ | _ | _ | _ | _ | q
  case reserved => cases q <;> cases r <;> cases st <;> rfl
  all_goals cases r <;> cases st <;> rfl

@[simp] theorem Sel_phase_selectorOf (r st : Level) (p : Phase) : Sel.phase (selectorOf r st p) = p := by
  rcases p with _ | _ | _ | _ | _ | q
  case reserved => cases q <;> cases r <;> cases st <;> rfl
  all_goals cases r <;> cases st <;> rfl

/-- Decoding a selector is reading its three fields. -/
theorem decodeSel_selectorOf (r st : Level) (p : Phase) :
    decodeSel (selectorOf r st p) =
      if r then .ok (.reset st p)
      else match p with
        | .idle => .ok (if st then .readStart else .idleNop)
        | .latch => .ok (.latchStep st)
        | .settle => .ok (.settleStep st)
        | .clklo => .ok (.clkloStep st)
        | .clkhi => .ok (.clkhiStep st)
        | .reserved q => .error q := by
  cases p <;> simp [decodeSel]

end Sys2Proof
end

