-- ==== Sys2Proof/Laws/State.lean ====
section
/-! SUPPORT. What each update of the state does to each field, one lemma per field per update, so that no proof unfolds a
record update. -/

namespace Sys2Proof.Machine

@[simp] theorem tick_T (s : State) : (tick s).T = s.T := rfl
@[simp] theorem tick_P (s : State) : (tick s).P = s.P := rfl
@[simp] theorem tick_phase (s : State) : (tick s).phase = s.phase := rfl
@[simp] theorem tick_tcnt (s : State) : (tick s).tcnt = countUp s.T.cycles s.tcnt := rfl
@[simp] theorem tick_bidx (s : State) : (tick s).bidx = s.bidx := rfl
@[simp] theorem tick_raw (s : State) : (tick s).raw = s.raw := rfl
@[simp] theorem tick_sync (s : State) : (tick s).sync = s.sync := rfl
@[simp] theorem tick_stateReg (s : State) : (tick s).stateReg = s.stateReg := rfl
@[simp] theorem tick_done (s : State) : (tick s).done = false := rfl
@[simp] theorem tick_nets (s : State) : (tick s).nets = s.nets := rfl
@[simp] theorem tick_hostIn (s : State) : (tick s).hostIn = s.hostIn := rfl
@[simp] theorem tick_pad (s : State) : (tick s).pad = s.pad := rfl
@[simp] theorem tick_edge (s : State) : (tick s).edge = s.edge := rfl

@[simp] theorem enterPhase_T (p : Phase) (s : State) : (enterPhase p s).T = s.T := rfl
@[simp] theorem enterPhase_P (p : Phase) (s : State) : (enterPhase p s).P = s.P := rfl
@[simp] theorem enterPhase_phase (p : Phase) (s : State) : (enterPhase p s).phase = p := rfl
@[simp] theorem enterPhase_tcnt (p : Phase) (s : State) : (enterPhase p s).tcnt = 0 := rfl
@[simp] theorem enterPhase_bidx (p : Phase) (s : State) : (enterPhase p s).bidx = s.bidx := rfl
@[simp] theorem enterPhase_raw (p : Phase) (s : State) : (enterPhase p s).raw = s.raw := rfl
@[simp] theorem enterPhase_sync (p : Phase) (s : State) : (enterPhase p s).sync = s.sync := rfl
@[simp] theorem enterPhase_stateReg (p : Phase) (s : State) : (enterPhase p s).stateReg = s.stateReg := rfl
@[simp] theorem enterPhase_done (p : Phase) (s : State) : (enterPhase p s).done = false := rfl
@[simp] theorem enterPhase_nets (p : Phase) (s : State) : (enterPhase p s).nets = s.nets := rfl
@[simp] theorem enterPhase_hostIn (p : Phase) (s : State) : (enterPhase p s).hostIn = s.hostIn := rfl
@[simp] theorem enterPhase_pad (p : Phase) (s : State) : (enterPhase p s).pad = s.pad := rfl
@[simp] theorem enterPhase_edge (p : Phase) (s : State) : (enterPhase p s).edge = s.edge := rfl

@[simp] theorem captureSample_T (b : Level) (s : State) : (captureSample b s).T = s.T := rfl
@[simp] theorem captureSample_P (b : Level) (s : State) : (captureSample b s).P = s.P := rfl
@[simp] theorem captureSample_phase (b : Level) (s : State) : (captureSample b s).phase = s.phase := rfl
@[simp] theorem captureSample_tcnt (b : Level) (s : State) : (captureSample b s).tcnt = s.tcnt := rfl
@[simp] theorem captureSample_bidx (b : Level) (s : State) : (captureSample b s).bidx = s.bidx := rfl
@[simp] theorem captureSample_raw (b : Level) (s : State) : (captureSample b s).raw = setBit s.raw s.bidx (!b) := rfl
@[simp] theorem captureSample_sync (b : Level) (s : State) : (captureSample b s).sync = s.sync := rfl
@[simp] theorem captureSample_stateReg (b : Level) (s : State) : (captureSample b s).stateReg = s.stateReg := rfl
@[simp] theorem captureSample_done (b : Level) (s : State) : (captureSample b s).done = s.done := rfl
@[simp] theorem captureSample_nets (b : Level) (s : State) : (captureSample b s).nets = s.nets := rfl
@[simp] theorem captureSample_hostIn (b : Level) (s : State) : (captureSample b s).hostIn = s.hostIn := rfl
@[simp] theorem captureSample_pad (b : Level) (s : State) : (captureSample b s).pad = s.pad := rfl
@[simp] theorem captureSample_edge (b : Level) (s : State) : (captureSample b s).edge = s.edge := rfl

@[simp] theorem nextPosition_T (s : State) : (nextPosition s).T = s.T := rfl
@[simp] theorem nextPosition_P (s : State) : (nextPosition s).P = s.P := rfl
@[simp] theorem nextPosition_phase (s : State) : (nextPosition s).phase = s.phase := rfl
@[simp] theorem nextPosition_tcnt (s : State) : (nextPosition s).tcnt = s.tcnt := rfl
@[simp] theorem nextPosition_bidx (s : State) : (nextPosition s).bidx = s.bidx + 1 := rfl
@[simp] theorem nextPosition_raw (s : State) : (nextPosition s).raw = s.raw := rfl
@[simp] theorem nextPosition_sync (s : State) : (nextPosition s).sync = s.sync := rfl
@[simp] theorem nextPosition_stateReg (s : State) : (nextPosition s).stateReg = s.stateReg := rfl
@[simp] theorem nextPosition_done (s : State) : (nextPosition s).done = s.done := rfl
@[simp] theorem nextPosition_nets (s : State) : (nextPosition s).nets = s.nets := rfl
@[simp] theorem nextPosition_hostIn (s : State) : (nextPosition s).hostIn = s.hostIn := rfl
@[simp] theorem nextPosition_pad (s : State) : (nextPosition s).pad = s.pad := rfl
@[simp] theorem nextPosition_edge (s : State) : (nextPosition s).edge = s.edge := rfl

@[simp] theorem completeRead_T (d : LogicalWord) (s : State) : (completeRead d s).T = s.T := rfl
@[simp] theorem completeRead_P (d : LogicalWord) (s : State) : (completeRead d s).P = s.P := rfl
@[simp] theorem completeRead_phase (d : LogicalWord) (s : State) : (completeRead d s).phase = .idle := rfl
@[simp] theorem completeRead_tcnt (d : LogicalWord) (s : State) : (completeRead d s).tcnt = 0 := rfl
@[simp] theorem completeRead_bidx (d : LogicalWord) (s : State) : (completeRead d s).bidx = s.bidx := rfl
@[simp] theorem completeRead_raw (d : LogicalWord) (s : State) : (completeRead d s).raw = s.raw := rfl
@[simp] theorem completeRead_sync (d : LogicalWord) (s : State) : (completeRead d s).sync = s.sync := rfl
@[simp] theorem completeRead_stateReg (d : LogicalWord) (s : State) : (completeRead d s).stateReg = d := rfl
@[simp] theorem completeRead_done (d : LogicalWord) (s : State) : (completeRead d s).done = true := rfl
@[simp] theorem completeRead_nets (d : LogicalWord) (s : State) : (completeRead d s).nets = s.nets := rfl
@[simp] theorem completeRead_hostIn (d : LogicalWord) (s : State) : (completeRead d s).hostIn = s.hostIn := rfl
@[simp] theorem completeRead_pad (d : LogicalWord) (s : State) : (completeRead d s).pad = s.pad := rfl
@[simp] theorem completeRead_edge (d : LogicalWord) (s : State) : (completeRead d s).edge = s.edge := rfl

@[simp] theorem beginRead_T (s : State) : (beginRead s).T = s.T := rfl
@[simp] theorem beginRead_P (s : State) : (beginRead s).P = s.P := rfl
@[simp] theorem beginRead_phase (s : State) : (beginRead s).phase = .latch := rfl
@[simp] theorem beginRead_tcnt (s : State) : (beginRead s).tcnt = 0 := rfl
@[simp] theorem beginRead_bidx (s : State) : (beginRead s).bidx = 0 := rfl
@[simp] theorem beginRead_raw (s : State) : (beginRead s).raw = 0x00000 := rfl
@[simp] theorem beginRead_sync (s : State) : (beginRead s).sync = s.sync := rfl
@[simp] theorem beginRead_stateReg (s : State) : (beginRead s).stateReg = s.stateReg := rfl
@[simp] theorem beginRead_done (s : State) : (beginRead s).done = false := rfl
@[simp] theorem beginRead_nets (s : State) : (beginRead s).nets = s.nets := rfl
@[simp] theorem beginRead_hostIn (s : State) : (beginRead s).hostIn = s.hostIn := rfl
@[simp] theorem beginRead_pad (s : State) : (beginRead s).pad = s.pad := rfl
@[simp] theorem beginRead_edge (s : State) : (beginRead s).edge = s.edge := rfl

@[simp] theorem clearDone_T (s : State) : (clearDone s).T = s.T := rfl
@[simp] theorem clearDone_P (s : State) : (clearDone s).P = s.P := rfl
@[simp] theorem clearDone_phase (s : State) : (clearDone s).phase = s.phase := rfl
@[simp] theorem clearDone_tcnt (s : State) : (clearDone s).tcnt = s.tcnt := rfl
@[simp] theorem clearDone_bidx (s : State) : (clearDone s).bidx = s.bidx := rfl
@[simp] theorem clearDone_raw (s : State) : (clearDone s).raw = s.raw := rfl
@[simp] theorem clearDone_sync (s : State) : (clearDone s).sync = s.sync := rfl
@[simp] theorem clearDone_stateReg (s : State) : (clearDone s).stateReg = s.stateReg := rfl
@[simp] theorem clearDone_done (s : State) : (clearDone s).done = false := rfl
@[simp] theorem clearDone_nets (s : State) : (clearDone s).nets = s.nets := rfl
@[simp] theorem clearDone_hostIn (s : State) : (clearDone s).hostIn = s.hostIn := rfl
@[simp] theorem clearDone_pad (s : State) : (clearDone s).pad = s.pad := rfl
@[simp] theorem clearDone_edge (s : State) : (clearDone s).edge = s.edge := rfl

@[simp] theorem resetRegisters_T (s : State) : (resetRegisters s).T = s.T := rfl
@[simp] theorem resetRegisters_P (s : State) : (resetRegisters s).P = s.P := rfl
@[simp] theorem resetRegisters_phase (s : State) : (resetRegisters s).phase = .idle := rfl
@[simp] theorem resetRegisters_tcnt (s : State) : (resetRegisters s).tcnt = 0 := rfl
@[simp] theorem resetRegisters_bidx (s : State) : (resetRegisters s).bidx = 0 := rfl
@[simp] theorem resetRegisters_raw (s : State) : (resetRegisters s).raw = 0x00000 := rfl
@[simp] theorem resetRegisters_sync (s : State) : (resetRegisters s).sync = List.replicate s.sync.length true := rfl
@[simp] theorem resetRegisters_stateReg (s : State) : (resetRegisters s).stateReg = 0x0000 := rfl
@[simp] theorem resetRegisters_done (s : State) : (resetRegisters s).done = false := rfl
@[simp] theorem resetRegisters_nets (s : State) : (resetRegisters s).nets = s.nets := rfl
@[simp] theorem resetRegisters_hostIn (s : State) : (resetRegisters s).hostIn = s.hostIn := rfl
@[simp] theorem resetRegisters_pad (s : State) : (resetRegisters s).pad = s.pad := rfl
@[simp] theorem resetRegisters_edge (s : State) : (resetRegisters s).edge = s.edge := rfl

@[simp] theorem shiftSync_T (s : State) : (shiftSync s).T = s.T := rfl
@[simp] theorem shiftSync_P (s : State) : (shiftSync s).P = s.P := rfl
@[simp] theorem shiftSync_phase (s : State) : (shiftSync s).phase = s.phase := rfl
@[simp] theorem shiftSync_tcnt (s : State) : (shiftSync s).tcnt = s.tcnt := rfl
@[simp] theorem shiftSync_bidx (s : State) : (shiftSync s).bidx = s.bidx := rfl
@[simp] theorem shiftSync_raw (s : State) : (shiftSync s).raw = s.raw := rfl
@[simp] theorem shiftSync_sync (s : State) : (shiftSync s).sync = shiftIn (dataI s) s.sync := rfl
@[simp] theorem shiftSync_stateReg (s : State) : (shiftSync s).stateReg = s.stateReg := rfl
@[simp] theorem shiftSync_done (s : State) : (shiftSync s).done = s.done := rfl
@[simp] theorem shiftSync_nets (s : State) : (shiftSync s).nets = s.nets := rfl
@[simp] theorem shiftSync_hostIn (s : State) : (shiftSync s).hostIn = s.hostIn := rfl
@[simp] theorem shiftSync_pad (s : State) : (shiftSync s).pad = s.pad := rfl
@[simp] theorem shiftSync_edge (s : State) : (shiftSync s).edge = s.edge := rfl

@[simp] theorem advancePins_T (b : State) (s : State) : (advancePins b s).T = s.T := rfl
@[simp] theorem advancePins_P (b : State) (s : State) : (advancePins b s).P = s.P := rfl
@[simp] theorem advancePins_phase (b : State) (s : State) : (advancePins b s).phase = s.phase := rfl
@[simp] theorem advancePins_tcnt (b : State) (s : State) : (advancePins b s).tcnt = s.tcnt := rfl
@[simp] theorem advancePins_bidx (b : State) (s : State) : (advancePins b s).bidx = s.bidx := rfl
@[simp] theorem advancePins_raw (b : State) (s : State) : (advancePins b s).raw = s.raw := rfl
@[simp] theorem advancePins_sync (b : State) (s : State) : (advancePins b s).sync = s.sync := rfl
@[simp] theorem advancePins_stateReg (b : State) (s : State) : (advancePins b s).stateReg = s.stateReg := rfl
@[simp] theorem advancePins_done (b : State) (s : State) : (advancePins b s).done = s.done := rfl
@[simp] theorem advancePins_nets (b : State) (s : State) : (advancePins b s).nets = s.nets := rfl
@[simp] theorem advancePins_hostIn (b : State) (s : State) : (advancePins b s).hostIn = s.hostIn.drop 1 := rfl
@[simp] theorem advancePins_pad (b : State) (s : State) : (advancePins b s).pad = padNext s.pad ⟨strobeO b, clockO b⟩ ⟨strobeO s, clockO s⟩ s.edge := rfl
@[simp] theorem advancePins_edge (b : State) (s : State) : (advancePins b s).edge = s.edge + 1 := rfl

@[simp] theorem queuePins_T (ps : List HostPins) (s : State) : (queuePins ps s).T = s.T := rfl
@[simp] theorem queuePins_P (ps : List HostPins) (s : State) : (queuePins ps s).P = s.P := rfl
@[simp] theorem queuePins_phase (ps : List HostPins) (s : State) : (queuePins ps s).phase = s.phase := rfl
@[simp] theorem queuePins_tcnt (ps : List HostPins) (s : State) : (queuePins ps s).tcnt = s.tcnt := rfl
@[simp] theorem queuePins_bidx (ps : List HostPins) (s : State) : (queuePins ps s).bidx = s.bidx := rfl
@[simp] theorem queuePins_raw (ps : List HostPins) (s : State) : (queuePins ps s).raw = s.raw := rfl
@[simp] theorem queuePins_sync (ps : List HostPins) (s : State) : (queuePins ps s).sync = s.sync := rfl
@[simp] theorem queuePins_stateReg (ps : List HostPins) (s : State) : (queuePins ps s).stateReg = s.stateReg := rfl
@[simp] theorem queuePins_done (ps : List HostPins) (s : State) : (queuePins ps s).done = s.done := rfl
@[simp] theorem queuePins_nets (ps : List HostPins) (s : State) : (queuePins ps s).nets = s.nets := rfl
@[simp] theorem queuePins_hostIn (ps : List HostPins) (s : State) : (queuePins ps s).hostIn = ps := rfl
@[simp] theorem queuePins_pad (ps : List HostPins) (s : State) : (queuePins ps s).pad = s.pad := rfl
@[simp] theorem queuePins_edge (ps : List HostPins) (s : State) : (queuePins ps s).edge = s.edge := rfl

end Sys2Proof.Machine
end

