-- ==== Sys2Proof/Laws/Ops.lean ====
section
/-! SUPPORT. One lemma per shared operation that says all it can do: the phase counter, the bit write into `RAW`, the
synchronizer chain. -/

namespace Sys2Proof.Machine

@[simp] theorem andThen_next (s : State) (f : State → Host.Outcome State Fault Refusal) :
    andThen (.next s) f = f s := rfl

/-- R77: `WT` bits hold every count of a read. -/
theorem two_mul_le_pow_tcntWidth (T : Nat) : 2 * T ≤ 2 ^ Config.tcntWidth T := by
  have h := Nat.lt_log2_self (n := 2 * T - 1)
  unfold Config.tcntWidth
  omega

/-- R33: below the terminal count the counter does not wrap. -/
theorem countUp_eq {T tcnt : Nat} (h : tcnt + 1 < 2 * T) : countUp T tcnt = tcnt + 1 :=
  Nat.mod_eq_of_lt (h.trans_le (two_mul_le_pow_tcntWidth T))

/-- All that `waitFor` can do. -/
theorem waitFor_cases (len : Nat) (s atEnd : State) :
    (s.tcnt = len - 1 ∧ waitFor len s atEnd = atEnd) ∨ (s.tcnt ≠ len - 1 ∧ waitFor len s atEnd = tick s) := by
  unfold waitFor
  by_cases h : s.tcnt = len - 1
  · exact .inl ⟨h, if_pos h⟩
  · exact .inr ⟨h, if_neg h⟩

theorem waitFor_end {len : Nat} {s : State} (atEnd : State) (h : s.tcnt = len - 1) :
    waitFor len s atEnd = atEnd := if_pos h

theorem waitFor_tick {len : Nat} {s : State} (atEnd : State) (h : s.tcnt ≠ len - 1) :
    waitFor len s atEnd = tick s := if_neg h

/-- R78: the written bit is `b`, every other bit stays. -/
theorem getLsbD_setBit (v : RawSample) (i : Position) (b : Bool) (k : Nat) :
    (setBit v i b).getLsbD k = if k = i.val then b else v.getLsbD k := by
  have hi := i.isLt
  have hone : (1#17 <<< i.val).getLsbD k = decide (k = i.val) := by
    rw [BitVec.getLsbD_shiftLeft, BitVec.getLsbD_one]
    by_cases hk : k < i.val
    · simp [hk, show k ≠ i.val by omega]
    · by_cases h : k = i.val
      · simp [h]
      · simp [h, show k - i.val ≠ 0 by omega]
  cases b
  · by_cases hk : k < 17
    · by_cases h : k = i.val
      · rw [setBit, if_neg (by decide), BitVec.getLsbD_and, BitVec.getLsbD_not, hone]; simp [h]
      · rw [setBit, if_neg (by decide), BitVec.getLsbD_and, BitVec.getLsbD_not, hone]; simp [hk, h]
    · rw [BitVec.getLsbD_of_ge _ _ (by omega), BitVec.getLsbD_of_ge _ _ (by omega)]; simp
  · rw [setBit, if_pos rfl, BitVec.getLsbD_or, hone]
    by_cases h : k = i.val <;> simp [h]

@[simp] theorem shiftIn_nil (l : Level) : shiftIn l [] = [] := rfl

@[simp] theorem length_shiftIn (l : Level) (chain : List Level) : (shiftIn l chain).length = chain.length := by
  simp [shiftIn]

/-- R36: `SYNC[0]` takes the level and `SYNC[k]` takes `SYNC[k-1]`. -/
theorem getElem?_shiftIn (l : Level) (chain : List Level) (k : Nat) (h : k < chain.length) :
    (shiftIn l chain)[k]? = if k = 0 then some l else chain[k - 1]? := by
  unfold shiftIn
  rw [List.getElem?_take_of_lt h]
  cases k with
  | zero => rfl
  | succ n => simp

/-- R108 with an empty chain. -/
theorem dsamp_of_nil {s : State} (h : s.sync = []) : dsamp s = dataI s := by
  simp [dsamp, h]

/-- R108 with a chain: the last stage. -/
theorem dsamp_of_getElem? {s : State} {b : Level} (h : s.sync[s.sync.length - 1]? = some b) : dsamp s = b := by
  simp [dsamp, List.getLast?_eq_getElem?, h]

theorem timingMet_iff (s : State) : timingMet s = true ↔ TimingHolds s := by
  simp [timingMet, TimingHolds, State.S]

/-- R105, R118: all that the sample can be. -/
theorem sampledLevel_eq (s : State) :
    sampledLevel s = if TimingHolds s then dsamp s else Config.freeSample s.edge := by
  unfold sampledLevel
  by_cases h : TimingHolds s
  · rw [if_pos h, if_pos ((timingMet_iff s).mpr h)]
  · rw [if_neg h, if_neg fun e => h ((timingMet_iff s).mp e)]

end Sys2Proof.Machine
end

