-- ==== Sys2Proof/Laws/Decoder.lean ====
section
/-! SUPPORT. The decode network bit by bit (spec/41_state_decoder.md): each function's output bits as gates over its
input bits. -/

namespace Sys2Proof.Machine

theorem getLsbD_ite_or (m x : LogicalWord) (b : Bool) (k : Nat) :
    (if b = true then m ||| x else m).getLsbD k = (m.getLsbD k || (b && x.getLsbD k)) := by
  cases b <;> simp

/-- R140: bit `k` of the mapped word is the OR, over the positions, of the sampled bit and the table's bit. -/
theorem getLsbD_foldl_remap (table : Position → LogicalWord) (raw : RawSample) (k : Nat) (l : List Position)
    (m : LogicalWord) :
    (l.foldl (fun m i => if raw.getLsbD i.val = true then m ||| table i else m) m).getLsbD k =
      (m.getLsbD k || l.any fun i => raw.getLsbD i.val && (table i).getLsbD k) := by
  induction l generalizing m with
  | nil => simp
  | cons i rest ih =>
    rw [List.foldl_cons, ih, getLsbD_ite_or, List.any_cons, Bool.or_assoc]

theorem getLsbD_remapWith (table : Position → LogicalWord) (raw : RawSample) (k : Nat) :
    (remapWith table raw).getLsbD k =
      Config.positions.any fun i => raw.getLsbD i.val && (table i).getLsbD k := by
  have h0 : (0 : LogicalWord).getLsbD k = false := BitVec.getLsbD_zero
  rw [remapWith, getLsbD_foldl_remap, h0, Bool.false_or]

theorem getLsbD_resolve_of_all {v pm : LogicalWord} (h : (v &&& pm) ^^^ pm = 0) (k : Nat) (hk : k < 16) :
    (resolve v pm).getLsbD k = (v.getLsbD k && !pm.getLsbD k) := by
  simp [resolve, h, hk]

theorem resolve_of_not_all {v pm : LogicalWord} (h : ¬(v &&& pm) ^^^ pm = 0) : resolve v pm = v := if_neg h

/-- R146: the XOR test says that every bit of the mask is set. -/
theorem xor_test_iff (v pm : LogicalWord) :
    (v &&& pm) ^^^ pm = 0 ↔ ∀ k, k < 16 → pm.getLsbD k = true → v.getLsbD k = true := by
  constructor
  · intro h k _ hp
    have hb := congrArg (fun w : LogicalWord => w.getLsbD k) h
    simp only [BitVec.getLsbD_xor, BitVec.getLsbD_and, hp] at hb
    cases hv : v.getLsbD k <;> simp_all
  · intro h
    apply BitVec.eq_of_getLsbD_eq
    intro k hk
    have := h k hk
    cases hp : pm.getLsbD k <;> simp_all

end Sys2Proof.Machine
end

