-- ==== Sys2Proof/Laws/PerInstr.lean ====
section
/-! SUPPORT. One fact about each operation as syntax, constructor by constructor: the selector that encodes it hits its own row of
the opcode map and no other (spec/30_encoding.md R74, "Exactly one row matches each reachable selector value"); a
datapath operation has neither (R75). -/

namespace Sys2Proof.Laws.OneRow

/-- The mnemonics of the rows that the selector of `i` hits are its own row's and nothing else. -/
def Statement (i : Instr) : Prop :=
  (encodeSel i).map (fun w => (selectorRows.filter fun r => r.hits w).map (·.mnemonic)) =
    (Instr.rowName i).map fun n => [n]

theorem reset (start : Level) (phase : Phase) : Statement (.reset start phase) := by
  cases start <;> rcases phase with _ | _ | _ | _ | _ | (_ | _ | _) <;> rfl
theorem idleNop : Statement .idleNop := rfl
theorem readStart : Statement .readStart := rfl
theorem latchStep (start : Level) : Statement (.latchStep start) := by cases start <;> rfl
theorem settleStep (start : Level) : Statement (.settleStep start) := by cases start <;> rfl
theorem clkloStep (start : Level) : Statement (.clkloStep start) := by cases start <;> rfl
theorem clkhiStep (start : Level) : Statement (.clkhiStep start) := by cases start <;> rfl
theorem syncShift : Statement .syncShift := rfl
theorem remap : Statement .remap := rfl
theorem resolveUd : Statement .resolveUd := rfl
theorem resolveLr : Statement .resolveLr := rfl
theorem presenceGate : Statement .presenceGate := rfl
theorem decode : Statement .decode := rfl

end Sys2Proof.Laws.OneRow
end

