-- ==== Sys2Proof/Laws/Step.lean ====
section
/-! SUPPORT. What one edge does, said once: the network settles, the step is the selected operation and then the close of the
edge, and one equation per phase for the state after the edge. Later proofs cite these and unfold no step. -/

namespace Sys2Proof.Machine

/-- The nets of `s` show `settledNets s.raw`. -/
def withNets (s : State) : State := { s with nets := settledNets s.raw }

/-- What an edge adds to the FSM operation that led from `before` to `s`, when `rst == 0`. -/
def closeEdge (before s : State) : State := advancePins before (withNets (shiftSync s))

/-- What an edge adds to RESET. -/
def closeReset (before s : State) : State := advancePins before (withNets s)

theorem settle_eq (s : State) : settle s = .next (withNets s) := rfl

/-- One edge: the selected operation, then SYNC_SHIFT unless `rst`, then the network and the pins. -/
theorem step_of_selected {s t : State} (h : execSelected s = .next t) :
    step s = .next (if (hostPins s).rst then closeReset s t else closeEdge s t) := by
  unfold step risingEdge
  rw [h, andThen_next]
  cases hr : (hostPins s).rst <;> rfl

theorem execSelected_eq (s : State) :
    execSelected s =
      if (hostPins s).rst then .next (resetRegisters s)
      else match s.phase with
        | .idle => .next (if (hostPins s).start then beginRead s else clearDone s)
        | .latch => .next (waitFor (2 * s.T.cycles) s (enterPhase .settle s))
        | .settle => .next (waitFor s.T.cycles s (enterPhase .clklo s))
        | .clklo => .next (waitFor s.T.cycles s (enterPhase .clkhi (captureSample (sampledLevel s) s)))
        | .clkhi => .next (waitFor s.T.cycles s
            (if s.bidx = Config.lastPosition then completeRead (decodeRaw s.raw) s
             else enterPhase .clklo (nextPosition s)))
        | .reserved _ => .next (recoverReserved s) := by
  unfold execSelected selector
  rw [decodeSel_selectorOf]
  cases hr : (hostPins s).rst
  · cases hp : s.phase <;> try rfl
    cases hs : (hostPins s).start <;> rfl
  · rfl

/-- The FSM operation always answers. -/
theorem execSelected_next (s : State) : ∃ t, execSelected s = .next t := by
  rw [execSelected_eq]
  cases (hostPins s).rst
  · cases s.phase <;> exact ⟨_, rfl⟩
  · exact ⟨_, rfl⟩

/-- The state after an edge is what the step answers. -/
theorem step_eq_next (s : State) : step s = .next (afterEdge s) := by
  obtain ⟨t, ht⟩ := execSelected_next s
  have h := step_of_selected ht
  unfold afterEdge
  rw [h]

theorem afterEdge_of_step {s t : State} (h : step s = .next t) : afterEdge s = t := by
  rw [step_eq_next] at h
  exact Host.Outcome.next.inj h

theorem afterEdge_of_selected {s t : State} (h : execSelected s = .next t) :
    afterEdge s = if (hostPins s).rst then closeReset s t else closeEdge s t :=
  afterEdge_of_step (step_of_selected h)

theorem afterEdge_reset {s : State} (hr : (hostPins s).rst = true) :
    afterEdge s = closeReset s (resetRegisters s) := by
  have h := execSelected_eq s
  rw [hr, if_pos rfl] at h
  rw [afterEdge_of_selected h, hr, if_pos rfl]

theorem afterEdge_run {s t : State} (hr : (hostPins s).rst = false) (h : execSelected s = .next t) :
    afterEdge s = closeEdge s t := by
  rw [afterEdge_of_selected h, hr, if_neg (by decide)]

theorem afterEdge_idle {s : State} (hr : (hostPins s).rst = false) (hp : s.phase = .idle) :
    afterEdge s = closeEdge s (if (hostPins s).start then beginRead s else clearDone s) :=
  afterEdge_run hr (by rw [execSelected_eq, hr, hp]; rfl)

theorem afterEdge_latch {s : State} (hr : (hostPins s).rst = false) (hp : s.phase = .latch) :
    afterEdge s = closeEdge s (waitFor (2 * s.T.cycles) s (enterPhase .settle s)) :=
  afterEdge_run hr (by rw [execSelected_eq, hr, hp]; rfl)

theorem afterEdge_settle {s : State} (hr : (hostPins s).rst = false) (hp : s.phase = .settle) :
    afterEdge s = closeEdge s (waitFor s.T.cycles s (enterPhase .clklo s)) :=
  afterEdge_run hr (by rw [execSelected_eq, hr, hp]; rfl)

theorem afterEdge_clklo {s : State} (hr : (hostPins s).rst = false) (hp : s.phase = .clklo) :
    afterEdge s =
      closeEdge s (waitFor s.T.cycles s (enterPhase .clkhi (captureSample (sampledLevel s) s))) :=
  afterEdge_run hr (by rw [execSelected_eq, hr, hp]; rfl)

theorem afterEdge_clkhi {s : State} (hr : (hostPins s).rst = false) (hp : s.phase = .clkhi) :
    afterEdge s =
      closeEdge s (waitFor s.T.cycles s
        (if s.bidx = Config.lastPosition then completeRead (decodeRaw s.raw) s
         else enterPhase .clklo (nextPosition s))) :=
  afterEdge_run hr (by rw [execSelected_eq, hr, hp]; rfl)

theorem afterEdge_reserved {s : State} {r : ReservedPhase} (hr : (hostPins s).rst = false)
    (hp : s.phase = .reserved r) : afterEdge s = closeEdge s (recoverReserved s) :=
  afterEdge_run hr (by rw [execSelected_eq, hr, hp]; rfl)

/-! What the close of an edge leaves of each register. -/

@[simp] theorem closeEdge_T (b s : State) : (closeEdge b s).T = s.T := rfl
@[simp] theorem closeEdge_P (b s : State) : (closeEdge b s).P = s.P := rfl
@[simp] theorem closeEdge_phase (b s : State) : (closeEdge b s).phase = s.phase := rfl
@[simp] theorem closeEdge_tcnt (b s : State) : (closeEdge b s).tcnt = s.tcnt := rfl
@[simp] theorem closeEdge_bidx (b s : State) : (closeEdge b s).bidx = s.bidx := rfl
@[simp] theorem closeEdge_raw (b s : State) : (closeEdge b s).raw = s.raw := rfl
@[simp] theorem closeEdge_sync (b s : State) : (closeEdge b s).sync = shiftIn (dataI s) s.sync := rfl
@[simp] theorem closeEdge_stateReg (b s : State) : (closeEdge b s).stateReg = s.stateReg := rfl
@[simp] theorem closeEdge_done (b s : State) : (closeEdge b s).done = s.done := rfl
@[simp] theorem closeEdge_nets (b s : State) : (closeEdge b s).nets = settledNets s.raw := rfl
@[simp] theorem closeEdge_hostIn (b s : State) : (closeEdge b s).hostIn = s.hostIn.drop 1 := rfl
@[simp] theorem closeEdge_pad (b s : State) :
    (closeEdge b s).pad = padNext s.pad (linesOf b) (linesOf s) s.edge := rfl
@[simp] theorem closeEdge_edge (b s : State) : (closeEdge b s).edge = s.edge + 1 := rfl

@[simp] theorem closeReset_T (b s : State) : (closeReset b s).T = s.T := rfl
@[simp] theorem closeReset_P (b s : State) : (closeReset b s).P = s.P := rfl
@[simp] theorem closeReset_phase (b s : State) : (closeReset b s).phase = s.phase := rfl
@[simp] theorem closeReset_tcnt (b s : State) : (closeReset b s).tcnt = s.tcnt := rfl
@[simp] theorem closeReset_bidx (b s : State) : (closeReset b s).bidx = s.bidx := rfl
@[simp] theorem closeReset_raw (b s : State) : (closeReset b s).raw = s.raw := rfl
@[simp] theorem closeReset_sync (b s : State) : (closeReset b s).sync = s.sync := rfl
@[simp] theorem closeReset_stateReg (b s : State) : (closeReset b s).stateReg = s.stateReg := rfl
@[simp] theorem closeReset_done (b s : State) : (closeReset b s).done = s.done := rfl
@[simp] theorem closeReset_nets (b s : State) : (closeReset b s).nets = settledNets s.raw := rfl
@[simp] theorem closeReset_hostIn (b s : State) : (closeReset b s).hostIn = s.hostIn.drop 1 := rfl
@[simp] theorem closeReset_pad (b s : State) :
    (closeReset b s).pad = padNext s.pad (linesOf b) (linesOf s) s.edge := rfl
@[simp] theorem closeReset_edge (b s : State) : (closeReset b s).edge = s.edge + 1 := rfl

/-! The cases of one edge. -/

/-- All that one edge can do: `EdgeCase s t` lists every way in which `t` follows `s` (R109, R73). -/
inductive EdgeCase (s : State) : State → Prop where
  | reset (hr : (hostPins s).rst = true) : EdgeCase s (closeReset s (resetRegisters s))
  | start (hr : (hostPins s).rst = false) (hp : s.phase = .idle) (hs : (hostPins s).start = true) :
      EdgeCase s (closeEdge s (beginRead s))
  | nop (hr : (hostPins s).rst = false) (hp : s.phase = .idle) (hs : (hostPins s).start = false) :
      EdgeCase s (closeEdge s (clearDone s))
  | latchHold (hr : (hostPins s).rst = false) (hp : s.phase = .latch) (ht : s.tcnt ≠ 2 * s.T.cycles - 1) :
      EdgeCase s (closeEdge s (tick s))
  | latchEnd (hr : (hostPins s).rst = false) (hp : s.phase = .latch) (ht : s.tcnt = 2 * s.T.cycles - 1) :
      EdgeCase s (closeEdge s (enterPhase .settle s))
  | settleHold (hr : (hostPins s).rst = false) (hp : s.phase = .settle) (ht : s.tcnt ≠ s.T.cycles - 1) :
      EdgeCase s (closeEdge s (tick s))
  | settleEnd (hr : (hostPins s).rst = false) (hp : s.phase = .settle) (ht : s.tcnt = s.T.cycles - 1) :
      EdgeCase s (closeEdge s (enterPhase .clklo s))
  | clkloHold (hr : (hostPins s).rst = false) (hp : s.phase = .clklo) (ht : s.tcnt ≠ s.T.cycles - 1) :
      EdgeCase s (closeEdge s (tick s))
  | clkloEnd (hr : (hostPins s).rst = false) (hp : s.phase = .clklo) (ht : s.tcnt = s.T.cycles - 1) :
      EdgeCase s (closeEdge s (enterPhase .clkhi (captureSample (sampledLevel s) s)))
  | clkhiHold (hr : (hostPins s).rst = false) (hp : s.phase = .clkhi) (ht : s.tcnt ≠ s.T.cycles - 1) :
      EdgeCase s (closeEdge s (tick s))
  | clkhiNext (hr : (hostPins s).rst = false) (hp : s.phase = .clkhi) (ht : s.tcnt = s.T.cycles - 1)
      (hb : s.bidx.val ≠ 16) : EdgeCase s (closeEdge s (enterPhase .clklo (nextPosition s)))
  | complete (hr : (hostPins s).rst = false) (hp : s.phase = .clkhi) (ht : s.tcnt = s.T.cycles - 1)
      (hb : s.bidx.val = 16) : EdgeCase s (closeEdge s (completeRead (decodeRaw s.raw) s))
  | recover (hr : (hostPins s).rst = false) (r : ReservedPhase) (hp : s.phase = .reserved r) :
      EdgeCase s (closeEdge s (recoverReserved s))

theorem edgeCase_afterEdge (s : State) : EdgeCase s (afterEdge s) := by
  cases hr : (hostPins s).rst
  case true => rw [afterEdge_reset hr]; exact .reset hr
  cases hp : s.phase with
  | idle =>
    rw [afterEdge_idle hr hp]
    cases hs : (hostPins s).start
    · exact .nop hr hp hs
    · exact .start hr hp hs
  | latch =>
    rw [afterEdge_latch hr hp]
    rcases waitFor_cases (2 * s.T.cycles) s (enterPhase .settle s) with ⟨ht, e⟩ | ⟨ht, e⟩ <;> rw [e]
    · exact .latchEnd hr hp ht
    · exact .latchHold hr hp ht
  | settle =>
    rw [afterEdge_settle hr hp]
    rcases waitFor_cases s.T.cycles s (enterPhase .clklo s) with ⟨ht, e⟩ | ⟨ht, e⟩ <;> rw [e]
    · exact .settleEnd hr hp ht
    · exact .settleHold hr hp ht
  | clklo =>
    rw [afterEdge_clklo hr hp]
    rcases waitFor_cases s.T.cycles s (enterPhase .clkhi (captureSample (sampledLevel s) s)) with ⟨ht, e⟩ | ⟨ht, e⟩ <;>
      rw [e]
    · exact .clkloEnd hr hp ht
    · exact .clkloHold hr hp ht
  | clkhi =>
    rw [afterEdge_clkhi hr hp]
    by_cases ht : s.tcnt = s.T.cycles - 1
    · rw [waitFor_end _ ht]
      by_cases hb : s.bidx.val = 16
      · rw [if_pos (show s.bidx = Config.lastPosition from Fin.ext hb)]
        exact .complete hr hp ht hb
      · rw [if_neg (show s.bidx ≠ Config.lastPosition from fun e => hb (congrArg Fin.val e))]
        exact .clkhiNext hr hp ht hb
    · rw [waitFor_tick _ ht]
      exact .clkhiHold hr hp ht
  | reserved r => rw [afterEdge_reserved hr hp]; exact .recover hr r hp

theorem edgeCase_of_step {s t : State} (h : step s = .next t) : EdgeCase s t :=
  afterEdge_of_step h ▸ edgeCase_afterEdge s

/-- What the selected operation leaves alone, whichever it is: the build, the environment and the edge number. -/
theorem execSelected_frame {s t : State} (h : execSelected s = .next t) :
    t.T = s.T ∧ t.P = s.P ∧ t.sync.length = s.sync.length ∧ t.hostIn = s.hostIn ∧ t.pad = s.pad ∧ t.edge = s.edge := by
  rw [execSelected_eq] at h
  cases hr : (hostPins s).rst
  · rw [hr, if_neg (by decide)] at h
    cases hp : s.phase <;> simp only [hp] at h <;> cases h
    · split <;> simp
    · rcases waitFor_cases (2 * s.T.cycles) s (enterPhase .settle s) with ⟨-, e⟩ | ⟨-, e⟩ <;> simp [e]
    · rcases waitFor_cases s.T.cycles s (enterPhase .clklo s) with ⟨-, e⟩ | ⟨-, e⟩ <;> simp [e]
    · rcases waitFor_cases s.T.cycles s (enterPhase .clkhi (captureSample (sampledLevel s) s)) with ⟨-, e⟩ | ⟨-, e⟩ <;>
        simp [e]
    · rcases waitFor_cases s.T.cycles s
        (if s.bidx = Config.lastPosition then completeRead (decodeRaw s.raw) s
         else enterPhase .clklo (nextPosition s)) with ⟨-, e⟩ | ⟨-, e⟩ <;> rw [e]
      · split <;> simp
      · simp
    · simp [recoverReserved]
  · rw [hr, if_pos rfl] at h
    cases h
    simp

end Sys2Proof.Machine
end

