-- ==== Sys2Proof/Laws/Run.lean ====
section
/-! SUPPORT. Runs of several edges: how they compose, what the environment's input streams are at each of their edges, and the
hold of a phase, by induction on its remaining cycles. -/

namespace Sys2Proof.Machine

@[simp] theorem afterEdges_zero (s : State) : afterEdges 0 s = s := rfl

theorem afterEdges_succ (n : Nat) (s : State) : afterEdges (n + 1) s = afterEdges n (afterEdge s) := rfl

theorem afterEdges_add (m n : Nat) (s : State) : afterEdges (m + n) s = afterEdges n (afterEdges m s) := by
  induction m generalizing s with
  | zero => simp
  | succ m ih => rw [Nat.succ_add, afterEdges_succ, ih, afterEdges_succ]

theorem afterEdges_last (n : Nat) (s : State) : afterEdges (n + 1) s = afterEdge (afterEdges n s) := by
  rw [afterEdges_add n 1 s]; rfl

/-- One edge uses up one entry of the host's queue, counts one edge, and keeps `T`, `P` and the depth of the chain. -/
theorem afterEdge_frame (s : State) :
    (afterEdge s).T = s.T ∧ (afterEdge s).P = s.P ∧ (afterEdge s).S = s.S ∧ (afterEdge s).hostIn = s.hostIn.drop 1 ∧
    (afterEdge s).edge = s.edge + 1 := by
  obtain ⟨t, ht⟩ := execSelected_next s
  obtain ⟨hT, hP, hS, hh, -, he⟩ := execSelected_frame ht
  rw [afterEdge_of_selected ht]
  cases (hostPins s).rst <;> simp [State.S, hT, hP, hS, hh, he]

@[simp] theorem afterEdge_T (s : State) : (afterEdge s).T = s.T := (afterEdge_frame s).1
@[simp] theorem afterEdge_S (s : State) : (afterEdge s).S = s.S := (afterEdge_frame s).2.2.1
@[simp] theorem afterEdge_P (s : State) : (afterEdge s).P = s.P := (afterEdge_frame s).2.1
@[simp] theorem afterEdge_hostIn (s : State) : (afterEdge s).hostIn = s.hostIn.drop 1 := (afterEdge_frame s).2.2.2.1
@[simp] theorem afterEdge_edge (s : State) : (afterEdge s).edge = s.edge + 1 := (afterEdge_frame s).2.2.2.2

@[simp] theorem afterEdges_T (n : Nat) (s : State) : (afterEdges n s).T = s.T := by
  induction n generalizing s with
  | zero => rfl
  | succ n ih => rw [afterEdges_succ, ih, afterEdge_T]

@[simp] theorem afterEdges_P (n : Nat) (s : State) : (afterEdges n s).P = s.P := by
  induction n generalizing s with
  | zero => rfl
  | succ n ih => rw [afterEdges_succ, ih, afterEdge_P]

@[simp] theorem afterEdges_S (n : Nat) (s : State) : (afterEdges n s).S = s.S := by
  induction n generalizing s with
  | zero => rfl
  | succ n ih => rw [afterEdges_succ, ih, afterEdge_S]

@[simp] theorem afterEdges_hostIn (n : Nat) (s : State) : (afterEdges n s).hostIn = s.hostIn.drop n := by
  induction n generalizing s with
  | zero => rfl
  | succ n ih => rw [afterEdges_succ, ih, afterEdge_hostIn, List.drop_drop, Nat.add_comm]

@[simp] theorem afterEdges_edge (n : Nat) (s : State) : (afterEdges n s).edge = s.edge + n := by
  induction n generalizing s with
  | zero => rfl
  | succ n ih => rw [afterEdges_succ, ih, afterEdge_edge]; omega

theorem hostPins_eq_hostAt_zero (s : State) : hostPins s = hostAt s 0 := by
  unfold hostPins hostAt
  cases s.hostIn <;> rfl

/-- The pins of edge `e` are an input stream: no operation changes them. -/
theorem hostPins_afterEdges (e : Nat) (s : State) : hostPins (afterEdges e s) = hostAt s e := by
  unfold hostPins hostAt
  rw [afterEdges_hostIn, afterEdges_edge]
  cases h : s.hostIn.drop e with
  | nil =>
    have : s.hostIn[e]? = none := by
      rw [List.getElem?_eq_none_iff]; exact List.drop_eq_nil_iff.mp h
    simp [this]
  | cons p rest =>
    have : s.hostIn[e]? = some p := by
      have h0 : (s.hostIn.drop e)[0]? = some p := by rw [h]; rfl
      simpa using h0
    simp [this]

theorem hostAt_afterEdges (m e : Nat) (s : State) : hostAt (afterEdges m s) e = hostAt s (m + e) := by
  rw [← hostPins_afterEdges, ← hostPins_afterEdges, afterEdges_add]

theorem levelAt_afterEdges (m e : Nat) (s : State) : levelAt (afterEdges m s) e = levelAt s (m + e) := by
  unfold levelAt
  rw [afterEdges_add]

end Sys2Proof.Machine
end

