-- ==== Sys2Proof/Tests/Slice0.lean ====
section
/-! SUPPORT. The model's own tests. Expected values are the spec's: the tables of 30_encoding.md and the vectors of 95_test_vectors.md,
named by their ids. Then, for every statement of Certificates/Slice0/Obligations.lean that has hypotheses, a concrete state or word
that meets them, clause by clause. -/

open Sys2Proof Sys2Proof.Machine

namespace Sys2Proof.Tests

/-! ## Helpers -/

/-- 95_test_vectors.md configuration A: `T = 1`, `S = 0`. -/
def cfgA : BuildParams := { T := { cycles := 1, pos := by decide }, S := 0 }
/-- 95_test_vectors.md configuration B: `T = 2`, `S = 2`. -/
def cfgB : BuildParams := { T := { cycles := 2, pos := by decide }, S := 2 }
/-- 95_test_vectors.md configuration C: `T = 1`, `S = 2`; R203 fails. -/
def cfgC : BuildParams := { T := { cycles := 1, pos := by decide }, S := 2 }

def idlePins : HostPins := { rst := false, start := false }
def startPins : HostPins := { rst := false, start := true }
def resetPins : HostPins := { rst := true, start := true }

/-- A state in the middle of things: the phase, the counters and the raw sample given, the rest as after reset. -/
def at' (p : BuildParams) (phase : Phase) (tcnt : Nat) (bidx : Position) (raw : RawSample) : State :=
  { State.resetWith p 0 with phase := phase, tcnt := tcnt, bidx := bidx, raw := raw }

/-- `s` with the host's pins for the coming edges. -/
def drive (pins : List HostPins) (s : State) : State := { s with hostIn := pins }

/-- `s` with the next level of `data_i`. -/
def line (l : Level) (s : State) : State := { s with pad := .levels [l] }

/-- The idle block with a read requested at edge 0 and nothing after it. -/
def accept (p : BuildParams) (pad : Pad) : State :=
  { State.resetWith p 0 with hostIn := startPins :: List.replicate 80 idlePins, pad := pad }

/-- A field of the state that an operation answers. -/
def after {α : Type} (i : Instr) (s : State) (f : State → α) : Option α :=
  match exec i s with
  | .next t => some (f t)
  | .fault _ => none
  | .refused _ => none

/-- A field of the state that a step answers. -/
def stepped {α : Type} (s : State) (f : State → α) : Option α :=
  match step s with
  | .next t => some (f t)
  | .fault _ => none
  | .refused _ => none

/-! ## WellFormed: what is refused -/

theorem test_wf_datapath_refused :
    ¬Instr.WellFormed .syncShift ∧ ¬Instr.WellFormed .remap ∧ ¬Instr.WellFormed .resolveUd ∧
    ¬Instr.WellFormed .resolveLr ∧ ¬Instr.WellFormed .presenceGate ∧ ¬Instr.WellFormed .decode := by decide

theorem test_wf_fsm_accepted :
    Instr.WellFormed (.reset true (.reserved .p111)) ∧ Instr.WellFormed (.clkhiStep true) := by decide

/-- R172: `T < 1` and `S < 0` do not build; parameters that violate R203 do. -/
theorem test_build :
    RawParams.build { delayCycles := 0 } = .error (.delayOutOfRange 0) ∧
    RawParams.build { delayCycles := 1, syncStages := -1 } = .error (.syncOutOfRange (-1)) ∧
    RawParams.build { delayCycles := 1 } = .ok cfgC ∧
    ¬RawParams.WellFormed { delayCycles := 0 } ∧ ¬RawParams.WellFormed { delayCycles := 1, syncStages := -1 } ∧
    RawParams.WellFormed { delayCycles := 1, syncStages := 0 } := by decide

theorem test_decoder_refuses :
    decodeBytes [] = .error .noSelector ∧ decodeBytes [0x20#8] = .error (.upperBitsSet 0x20#8) ∧
    decodeBytes [0b00000101#8] = .error (.reservedPhase .p101) ∧
    decodeBytes [0b00001110#8] = .error (.reservedPhase .p110) ∧
    decodeBytes [0b00000111#8] = .error (.reservedPhase .p111) := by decide

theorem test_table_words :
    decodeTableWord 8 0x10 = some (.reset false .idle) ∧ decodeTableWord 8 0x05 = none ∧
    decodeTableWord 8 0x30 = none ∧ decodeTableWord 0 0 = none := by decide

/-! ## Decoding: the selectors of R71, R72, R74 written out bit by bit, `{rst, start_i, phase[2:0]}` -/

theorem test_decode_reset : decodeSel 0b1_1_011#5 = .ok (.reset true .clklo) := by decide
theorem test_decode_idleNop : decodeSel 0b0_0_000#5 = .ok .idleNop := by decide
theorem test_decode_readStart : decodeSel 0b0_1_000#5 = .ok .readStart := by decide
theorem test_decode_latchStep : decodeSel 0b0_1_001#5 = .ok (.latchStep true) := by decide
theorem test_decode_settleStep : decodeSel 0b0_0_010#5 = .ok (.settleStep false) := by decide
theorem test_decode_clkloStep : decodeSel 0b0_1_011#5 = .ok (.clkloStep true) := by decide
theorem test_decode_clkhiStep : decodeSel 0b0_0_100#5 = .ok (.clkhiStep false) := by decide
theorem test_encode_datapath :
    encode .syncShift = [] ∧ encode .remap = [] ∧ encode .resolveUd = [] ∧ encode .resolveLr = [] ∧
    encode .presenceGate = [] ∧ encode .decode = [] := by decide

/-! ## Operations -/

/-- FSM-1. -/
theorem test_reset :
    stepped (drive [resetPins] { at' cfgB .clklo 1 5 0x00013 with stateReg := 0x0209, sync := [false, false] })
      (fun t => (registersOf t, strobeO t, clockO t, busyO t)) =
    some (⟨.idle, 0, 0, 0, [true, true], 0, false⟩, false, true, false) := by decide

/-- FSM-2. -/
theorem test_idle_nop :
    after .idleNop { at' cfgB .idle 0 16 0x10011 with done := true, stateReg := 0x0209 }
      (fun t => (t.done, t.stateReg, t.raw)) = some (false, 0x0209, 0x10011) := by decide

/-- FSM-3. -/
theorem test_read_start :
    after .readStart { at' cfgB .idle 0 16 0x1FFFF with done := true, stateReg := 0x1F87 }
      (fun t => (registersOf t, strobeO t, busyO t)) =
    some (⟨.latch, 0, 0, 0, [true, true], 0x1F87, false⟩, true, true) := by decide

/-- FSM-4. -/
theorem test_latch_holds :
    after (.latchStep true) (at' cfgB .latch 1 0 0) (fun t => (t.phase, t.tcnt)) = some (.latch, 2) := by decide
/-- FSM-7: with `T = 1` the terminal count is 1. -/
theorem test_latch_ends :
    after (.latchStep false) (at' cfgA .latch 1 0 0) (fun t => (t.phase, t.tcnt, strobeO t)) =
    some (.settle, 0, false) := by decide

/-- FSM-8. -/
theorem test_settle_holds :
    after (.settleStep false) (at' cfgB .settle 0 0 0) (fun t => (t.phase, t.tcnt)) = some (.settle, 1) := by decide
/-- FSM-9. -/
theorem test_settle_ends :
    after (.settleStep true) (at' cfgB .settle 1 0 0) (fun t => (t.phase, t.tcnt, clockO t)) =
    some (.clklo, 0, false) := by decide

/-- FSM-11: the sample is `SYNC[1]` before the edge, not the pin. -/
theorem test_clklo_samples :
    stepped (drive [idlePins] (line true { at' cfgB .clklo 1 4 0x00001 with sync := [true, false] }))
      (fun t => (t.raw, t.phase, t.tcnt, t.sync)) = some (0x00011, .clkhi, 0, [true, true]) := by decide
/-- FSM-13: position 16, no synchronizer. -/
theorem test_clklo_position_16 :
    stepped (drive [startPins] (line false (at' cfgA .clklo 0 16 0x00011))) (fun t => (t.raw, t.phase)) =
    some (0x10011, .clkhi) := by decide

/-- FSM-15. -/
theorem test_clkhi_next :
    after (.clkhiStep false) (at' cfgB .clkhi 1 3 0) (fun t => (t.phase, t.bidx, t.tcnt, t.done)) =
    some (.clklo, 4, 0, false) := by decide
/-- FSM-16. -/
theorem test_clkhi_completes :
    after (.clkhiStep true) (at' cfgA .clkhi 0 16 0x10011) (fun t => (t.phase, t.tcnt, t.bidx, t.stateReg, t.done)) =
    some (.idle, 0, 16, 0x0209, true) := by decide

/-- SYNC-1. -/
theorem test_sync_shift :
    after .syncShift (line false { at' cfgB .idle 0 0 0 with sync := [true, true] }) (·.sync) =
    some [false, true] := by decide
/-- SYNC-3 and R107: without a chain the shift does nothing and the sampler reads the pin. -/
theorem test_sync_empty :
    after .syncShift (line true (at' cfgA .idle 0 0 0)) (·.sync) = some [] ∧
    dsamp (line true (at' cfgA .idle 0 0 0)) = true := by decide

/-- MAP-9. -/
theorem test_remap :
    after .remap (at' cfgB .idle 0 0 0x10200) (·.nets.mapped) = some 0x0101 := by decide
/-- DEC-3: every non-direction button. -/
theorem test_remap_buttons : remap 0x10F0F = 0x1F87 := by decide

/-- RES-4, RES-6. -/
theorem test_resolve_ud :
    resolveUD 0x0019 = 0x0001 ∧ resolveUD 0xFFFF = 0xFFE7 ∧ resolveUD 0x0011 = 0x0011 := by decide
/-- RES-11, RES-13. -/
theorem test_resolve_lr :
    resolveLR 0x0061 = 0x0001 ∧ resolveLR 0x0079 = 0x0019 ∧ resolveLR 0xFFFF = 0xFF9F := by decide
/-- GATE-1, GATE-4. -/
theorem test_presence_gate : presenceGate 0x1FFE = 0x0000 ∧ presenceGate 0xFFFF = 0xFFFF := by decide

/-- DEC-4, DEC-8, DEC-10. -/
theorem test_decode_corners :
    decodeRaw 0x0FFFF = 0x0000 ∧ decodeRaw 0x100F0 = 0x0001 ∧ decodeRaw 0x10070 = 0x0021 := by decide
/-- DEC-15: X, L and R. -/
theorem test_decode :
    after .decode (at' cfgB .idle 0 0 0x10E00) (·.nets.decoded) = some 0x1901 := by decide

/-- The table word placed at the next edge of the reset machine is the operation that step runs. -/
theorem test_fetch_word :
    stepped (State.reset.withFetchWord 8 0x08) (·.phase) = some .latch ∧
    stepped (State.reset.withFetchWord 8 0x03) (·.tcnt) = some 1 := by decide

/-- R118, R203(a): `T = 1`, `S = 5`, right after a reset: the sample of position 0 is a draw, not the chain's reset value. -/
theorem test_draw_after_reset :
    after (.clkloStep false) (at' { cfgA with S := 5 } .clklo 0 0 0) (fun t => t.raw.getLsbD 0) =
    some (!Config.freeSample 0) := by
  change some ((setBit 0 0 (!Config.freeSample 0)).getLsbD 0) = _
  rw [getLsbD_setBit]
  rfl

/-- Configuration C with no controller: a draw as well. -/
theorem test_draw_disconnected :
    sampledLevel { at' cfgC .clklo 0 3 0 with pad := .disconnected, edge := 12 } = Config.freeSample 12 := rfl

/-! ## Witnesses -/

theorem witness_SelectorMapOfTheOpcodeTable :
    (0x1F#5 &&& 0x10#5 = 0x10#5) ∧ (0x00#5 &&& 0x1F#5 = 0x00#5) ∧ (0x08#5 &&& 0x1F#5 = 0x08#5) ∧
    (0x09#5 &&& 0x17#5 = 0x01#5) ∧ (0x0A#5 &&& 0x17#5 = 0x02#5) ∧ (0x0B#5 &&& 0x17#5 = 0x03#5) ∧
    (0x0C#5 &&& 0x17#5 = 0x04#5) ∧ (0x0D#5 &&& 0x17#5 = 0x05#5) ∧ (0x0E#5 &&& 0x17#5 = 0x06#5) ∧
    (0x0F#5 &&& 0x17#5 = 0x07#5) ∧ ((0x10#5).getLsbD 4 = true) ∧ (((0x0C#5).extractLsb' 0 3).toNat ≤ 4) := by decide

theorem witness_EncodedOperationsDecodeBack :
    Instr.WellFormed (.reset true (.reserved .p111)) ∧ Instr.WellFormed .readStart := by decide

theorem witness_AcceptedBytesEncodeBack :
    decodeBytes [0x1F#8, 0xFF#8] = .ok (.reset true (.reserved .p111), [0xFF#8]) := by decide

theorem witness_DatapathOperationsAreNeverSelected :
    Instr.format .syncShift = .datapath ∧ Instr.format .remap = .datapath ∧ Instr.format .resolveUd = .datapath ∧
    Instr.format .resolveLr = .datapath ∧ Instr.format .presenceGate = .datapath ∧
    Instr.format .decode = .datapath := by decide

theorem witness_ResetClearsEveryRegister :
    let c : Controller := { buttons := 0x0011, moving := 0, captured := 0xABCD, events := 9, age := 4 }
    let s := drive [resetPins] (at' cfgB .clkhi 1 16 0x1FFFF)
    (0x1F#5 &&& 0x10#5 = 0x10#5) ∧ (hostPins s).rst = true ∧
    (∃ t, exec (.reset (hostPins s).start s.phase) s = .next t) ∧ (∃ u, step s = .next u) ∧
    Lines.strobeFell ⟨true, true⟩ ⟨false, true⟩ = true ∧ c.moving = 0 :=
  ⟨by decide, by decide, ⟨_, rfl⟩, ⟨_, rfl⟩, by decide, rfl⟩

theorem witness_IdleNopClearsDoneOnly :
    let s := drive [idlePins, idlePins] { at' cfgB .idle 0 16 0x10011 with done := true, stateReg := 0x0209 }
    (0x00#5 &&& 0x1F#5 = 0x00#5) ∧ s.phase = .idle ∧ (∃ t, exec .idleNop s = .next t) ∧
    (∀ e, e < 2 → hostAt s e = { rst := false, start := false }) :=
  ⟨by decide, rfl, ⟨_, rfl⟩, by decide⟩

theorem witness_ReadStartOpensARead :
    let s := drive [startPins] { at' cfgB .idle 0 16 0x10011 with done := true }
    (0x08#5 &&& 0x1F#5 = 0x08#5) ∧ s.phase = .idle ∧ hostPins s = { rst := false, start := true } ∧
    doneO s = true := by decide

theorem witness_LatchStepHoldsThenSettles :
    (at' cfgB .latch 3 0 0).tcnt = 2 * cfgB.T.cycles - 1 ∧ (at' cfgB .latch 4 0 0).tcnt ≠ 2 * cfgB.T.cycles - 1 ∧
    (at' cfgB .latch 2 0 0).tcnt < 2 * cfgB.T.cycles - 1 := by decide

theorem witness_SettleStepHoldsThenClocks :
    (at' cfgB .settle 1 0 0).tcnt = cfgB.T.cycles - 1 ∧ (at' cfgB .settle 2 0 0).tcnt ≠ cfgB.T.cycles - 1 ∧
    (at' cfgB .settle 0 0 0).tcnt < cfgB.T.cycles - 1 := by decide

theorem witness_ClkloStepSamplesAtTheEndOfTheHold :
    (0x0B#5 &&& 0x17#5 = 0x03#5) ∧ (at' cfgB .clklo 1 16 0).tcnt = cfgB.T.cycles - 1 ∧
    (at' cfgB .clklo 2 16 0).tcnt ≠ cfgB.T.cycles - 1 ∧ (at' cfgB .clklo 0 0 0).tcnt < cfgB.T.cycles - 1 := by decide

theorem witness_ClkhiStepMovesOnOrCompletes :
    ((at' cfgB .clkhi 1 16 0).tcnt = cfgB.T.cycles - 1 ∧ (at' cfgB .clkhi 1 16 0).bidx.val = 16) ∧
    ((at' cfgA .clkhi 0 15 0).tcnt = cfgA.T.cycles - 1 ∧ (at' cfgA .clkhi 0 15 0).bidx.val ≠ 16) ∧
    (at' cfgB .clkhi 2 16 0).tcnt ≠ cfgB.T.cycles - 1 ∧ (at' cfgB .clkhi 0 16 0).tcnt < cfgB.T.cycles - 1 := by decide

theorem witness_SyncShiftMovesTheChain :
    let s := drive [idlePins] (at' cfgB .idle 0 0 0)
    let r := drive [resetPins] (at' cfgB .latch 0 0 0)
    ((hostPins s).rst = false ∧ (∃ t, exec .syncShift s = .next t) ∧ ∃ u, step s = .next u) ∧
    ((hostPins r).rst = true ∧ ∃ u, step r = .next u) :=
  ⟨⟨by decide, ⟨_, rfl⟩, ⟨_, rfl⟩⟩, ⟨by decide, ⟨_, rfl⟩⟩⟩

theorem witness_SampledLevelIsTheLastStage :
    (State.resetWith cfgA 0).S = 0 ∧ (State.resetWith cfgB 0).S ≠ 0 := by decide

theorem witness_SampledLevelIsSEdgesOld :
    let s := drive [idlePins, idlePins] (State.resetWith cfgB 0)
    s.S ≤ 2 ∧ NoResetWithin 2 s := by decide

theorem witness_RemapIsTheFixedWiring : 12 ≤ (12 : Position).val ∧ (15 : Position).val ≤ 15 := by decide

/-- Both bits of the pair set at the operation's input, and bits on either side of the pair. -/
theorem witness_ResolveUdCancelsUpAndDown :
    let s : State := { State.resetWith cfgB 0 with nets := { mapped := 0xFFFF, ud := 0, lr := 0, gated := 0, decoded := 0 } }
    (∃ t, exec .resolveUd s = .next t) ∧ s.nets.mapped &&& Config.UD = Config.UD ∧ (2 ≠ 3 ∧ 2 ≠ 4) ∧ 5 ≠ 3 ∧ 5 ≠ 4 :=
  ⟨⟨_, rfl⟩, by decide⟩

theorem witness_ResolveLrCancelsLeftAndRight :
    let s : State := { State.resetWith cfgB 0 with nets := { mapped := 0, ud := 0xFFFF, lr := 0, gated := 0, decoded := 0 } }
    (∃ t, exec .resolveLr s = .next t) ∧ s.nets.ud &&& Config.LR = Config.LR ∧ (4 ≠ 5 ∧ 4 ≠ 6) ∧ 7 ≠ 5 ∧ 7 ≠ 6 :=
  ⟨⟨_, rfl⟩, by decide⟩

theorem witness_PresenceGateZeroesAnAbsentPad :
    let s : State := State.resetWith cfgB 0
    ({ s with nets := { s.nets with lr := 0x0009 } } : State).nets.lr.getLsbD 0 = true ∧
    s.nets.lr.getLsbD 0 = false := by decide

theorem witness_DecodeIsTheComposition :
    (remap 0x0FFFF).getLsbD 0 = false ∧ (remap 0x10000).getLsbD 0 = true ∧
    (0x0FFFF : RawSample).getLsbD 16 = false ∧
    (∀ k, k < 17 → k < 12 ∨ 15 < k → (0x1F000 : RawSample).getLsbD k = (0x10000 : RawSample).getLsbD k) := by decide

theorem witness_CancellationIsIdempotentAndNeverLeavesThePair : (Config.UD ≠ 0) ∧ (0xFFFF : LogicalWord) ≠ 0 := by
  decide

theorem witness_StepRunsTheDecodedOperation :
    let s := drive [startPins] (at' cfgB .clkhi 1 16 0x10011)
    decodeSel (selector s) = .ok (.clkhiStep true) ∧ ∃ t, exec (.clkhiStep true) s = .next t :=
  ⟨by decide, ⟨_, rfl⟩⟩

theorem witness_ReservedPhaseRecoversToIdle :
    let s := drive [idlePins] (at' cfgB (.reserved .p110) 3 7 0x00011)
    s.phase = .reserved .p110 ∧ (hostPins s).rst = false ∧ ∃ t, step s = .next t :=
  ⟨rfl, by decide, ⟨_, rfl⟩⟩

theorem witness_OneResetEdgeFixesEveryRegister :
    (hostPins (drive [resetPins] (at' cfgB (.reserved .p111) 9 16 0x1FFFF))).rst = true := by decide

theorem witness_PriorityOfSimultaneousInputs :
    (hostPins (drive [resetPins] (at' cfgA .idle 0 0 0))).rst = true ∧
    ((hostPins (drive [startPins] (at' cfgA .idle 0 0 0))).rst = false ∧ (at' cfgA .idle 0 0 0).phase = .idle) ∧
    (at' cfgA .latch 0 0 0).phase = .latch ∧ (at' cfgA .settle 0 0 0).phase = .settle ∧
    (at' cfgA .clklo 0 0 0).phase = .clklo ∧
    (let s := drive [startPins, startPins] (at' cfgA .clkhi 0 16 0)
     s.phase = .clkhi ∧ s.tcnt = s.T.cycles - 1 ∧ s.bidx.val = 16 ∧ (hostPins s).rst = false ∧
       hostAt s 0 = { rst := false, start := true } ∧ hostAt s 1 = { rst := false, start := true }) := by decide

theorem witness_LinesAreFunctionsOfThePhase :
    (at' cfgA .clklo 0 3 0x1).phase = (at' cfgB .clklo 1 16 0x2).phase ∧
    at' cfgA .clklo 0 3 0x1 ≠ at' cfgB .clklo 1 16 0x2 := by decide

theorem witness_RequestWhileBusyIsDropped : (at' cfgB .clkhi 1 16 0).phase ≠ .idle := by decide

/-- Steps that meet the hypothesis of the statements about every step: a completing, a sampling and a reset one. -/
theorem witness_AnyStep : (∃ t, step (drive [startPins] (at' cfgA .clkhi 0 16 0x10011)) = .next t) ∧
    (∃ t, step (drive [idlePins] (at' cfgA .clklo 0 16 0x00011)) = .next t) ∧
    ∃ t, step (drive [resetPins] (at' cfgA .idle 0 16 0x10011)) = .next t :=
  ⟨⟨_, rfl⟩, ⟨_, rfl⟩, ⟨_, rfl⟩⟩

theorem witness_ResetMeetsTheInvariants :
    let s := drive [resetPins] (at' cfgB (.reserved .p101) 99 16 0x1FFFF)
    (hostPins s).rst = true ∧ ∃ t, step s = .next t :=
  ⟨by decide, ⟨_, rfl⟩⟩

theorem witness_EveryStepKeepsTheInvariants :
    let s := drive [startPins] { at' cfgB .latch 3 0 0x10011 with stateReg := 0x1F87 }
    Inv s ∧ ∃ t, step s = .next t :=
  ⟨by decide, ⟨_, rfl⟩⟩

theorem witness_CounterFitsItsWidth : Inv (at' cfgB .latch 3 0 0) ∧ Inv (at' cfgA .latch 1 0 0) := by decide

theorem witness_OutOfRangeParametersDoNotBuild :
    RawParams.WellFormed { delayCycles := 1, syncStages := 0 } ∧ ¬RawParams.WellFormed { delayCycles := 0 } ∧
    ¬RawParams.WellFormed { delayCycles := 1, syncStages := -1 } := by decide

theorem witness_EveryEdgeBringsAReadNearerToItsEnd :
    let s := drive [idlePins] (at' cfgB .clkhi 1 16 0x10011)
    Inv s ∧ busyO s = true ∧ (hostPins s).rst = false ∧ ∃ t, step s = .next t :=
  ⟨by decide, by decide, by decide, ⟨_, rfl⟩⟩

/-- A read accepted in configuration A and followed to its end without a reset; every cycle `c` up to `37*T` is in range,
and each clause of the schedule has one. -/
theorem witness_ReadFollowsTheSchedule :
    let s := accept cfgA .disconnected
    AcceptsRead s ∧ NoResetWithin (37 * s.T.cycles + 1) s ∧
    (1 < 2 * s.T.cycles) ∧ (2 * s.T.cycles ≤ 2 ∧ 2 < 3 * s.T.cycles) ∧
    ((3 + 2 * 16) * s.T.cycles ≤ 35 ∧ 35 < (4 + 2 * 16) * s.T.cycles) ∧
    ((4 + 2 * 16) * s.T.cycles ≤ 36 ∧ 36 < (5 + 2 * 16) * s.T.cycles) ∧ 37 = 37 * s.T.cycles := by decide

theorem witness_LineEventsOfARead :
    let s := accept cfgA .stuckLow
    AcceptsRead s ∧ NoResetWithin (37 * s.T.cycles + 1) s ∧ 37 ≤ 37 * s.T.cycles := by decide

theorem witness_ReadCompletesAfterThirtySevenT :
    let s := { accept cfgA .stuckLow with done := true, stateReg := 0x0209 }
    AcceptsRead s ∧ NoResetWithin (37 * s.T.cycles + 1) s := by decide

/-- With the timing of R203(a) and without it. -/
theorem witness_RawFillsPositionByPosition :
    (let s := accept cfgB .stuckLow
     AcceptsRead s ∧ NoResetWithin (37 * s.T.cycles + 1) s ∧ TimingHolds s) ∧
    (let s := accept cfgC .stuckLow
     AcceptsRead s ∧ NoResetWithin (37 * s.T.cycles + 1) s ∧ ¬TimingHolds s) := by decide

theorem pad_fixed (s : State) :
    (s.pad = .disconnected → (afterEdge s).pad = .disconnected) ∧ (s.pad = .stuckLow → (afterEdge s).pad = .stuckLow) := by
  have h := edgeCase_afterEdge s
  generalize afterEdge s = t at h
  cases h <;> constructor <;> intro hp <;> simp [padNext, recoverReserved, hp]

theorem pad_fixed_run (n : Nat) (s : State) :
    (s.pad = .disconnected → (afterEdges n s).pad = .disconnected) ∧
    (s.pad = .stuckLow → (afterEdges n s).pad = .stuckLow) := by
  induction n generalizing s with
  | zero => exact ⟨id, id⟩
  | succ n ih => exact ⟨fun h => (ih _).1 ((pad_fixed s).1 h), fun h => (ih _).2 ((pad_fixed s).2 h)⟩

/-- A line held low meets the contract for a controller with every button pressed, and an event does show. -/
theorem witness_ReadReturnsTheButtons_present :
    let s := accept cfgA .stuckLow
    AcceptsRead s ∧ NoResetWithin (37 * s.T.cycles + 1) s ∧ TimingHolds s ∧
    PresentsButtons s 0xFFFF (37 * s.T.cycles + 1) ∧ eventShows s 2 = true := by
  refine ⟨by decide, by decide, by decide, ?_, by decide⟩
  intro c e _ _ _ _
  have hl : levelAt (accept cfgA .stuckLow) e = false := by
    simp [levelAt, dataI, (pad_fixed_run e (accept cfgA .stuckLow)).2 rfl, padLevel]
  rw [hl]
  unfold presentedLevel
  split
  · next h => interval_cases eventsUpTo (accept cfgA .stuckLow) c - 1 <;> rfl
  · rfl

theorem witness_ReadReturnsTheButtons_absent :
    let s := { accept cfgB .disconnected with P := 1 }
    AcceptsRead s ∧ NoResetWithin (37 * s.T.cycles + 1) s ∧ TimingHolds s ∧ PulledHigh s (37 * s.T.cycles + 1) :=
  ⟨by decide, by decide, by decide, fun e _ => by
    simp [levelAt, dataI, (pad_fixed_run e { accept cfgB .disconnected with P := 1 }).1 rfl, padLevel]⟩

theorem witness_ConnectedControllerIsReadCorrectly :
    let c : Controller := { buttons := 0x0011, moving := 0xFFFF, captured := 0xABCD, events := 7, age := 3 }
    let s := { accept cfgB (.connected c) with P := 1 }
    s.pad = .connected c ∧ AcceptsRead s ∧ NoResetWithin (37 * s.T.cycles + 1) s ∧ TimingHolds s := by decide

/-- A connected controller in configuration C, and a read right after a reset with `T = 1`, `S = 5`. -/
theorem witness_SamplesOutsideTheTimingAreDraws :
    (let s := accept cfgC (connectedPad 0x0011)
     ¬TimingHolds s ∧ AcceptsRead s ∧ NoResetWithin (37 * s.T.cycles + 1) s) ∧
    (let s := accept { cfgA with S := 5 } .disconnected
     ¬TimingHolds s ∧ AcceptsRead s ∧ NoResetWithin (37 * s.T.cycles + 1) s) ∧ (0 : Nat) ≠ 16 := by decide

theorem witness_AbsentAndStuckLowPads :
    let s := accept cfgA .disconnected
    let u := accept cfgA .stuckLow
    (AcceptsRead s ∧ NoResetWithin (37 * s.T.cycles + 1) s ∧ TimingHolds s ∧ s.pad = .disconnected) ∧
    (AcceptsRead u ∧ NoResetWithin (37 * u.T.cycles + 1) u ∧ TimingHolds u ∧ u.pad = .stuckLow) := by decide

theorem witness_SequenceOfAReadIsNotInterruptible :
    let s := drive (List.replicate 3 startPins) (at' cfgA .clkhi 0 15 0x1)
    let u := drive (List.replicate 3 idlePins) (line false { at' cfgA .clkhi 0 15 0x2 with stateReg := 0x0209 })
    Inv s ∧ Inv u ∧ s.T = u.T ∧ s.phase = u.phase ∧ s.tcnt = u.tcnt ∧ s.bidx = u.bidx ∧ s ≠ u ∧
    3 ≤ edgesLeft s ∧ NoResetWithin 3 s ∧ NoResetWithin 3 u := by decide

theorem witness_BackToBackReads :
    let s := drive (List.replicate 80 startPins) (State.resetWith cfgA 0)
    s.phase = .idle ∧ ∀ e, e ≤ 1 * (37 * s.T.cycles + 1) → hostAt s e = { rst := false, start := true } := by decide

/-- With R203(a), at the deepest chain it allows for `T = 2` and `P = 0`, and without it; the last cycle is in range. -/
theorem witness_SynchronizerContentsAreUnobservable :
    (let s := accept { cfgB with S := 3 } .disconnected
     TimingHolds s ∧ AcceptsRead s ∧ NoResetWithin (37 * s.T.cycles + 1) s ∧
     [false, false, true].length = s.sync.length ∧ [false, false, true] ≠ s.sync ∧ 74 ≤ 37 * s.T.cycles) ∧
    (let s := accept { cfgA with S := 5 } .disconnected
     ¬TimingHolds s ∧ AcceptsRead s ∧ NoResetWithin (37 * s.T.cycles + 1) s ∧
     (List.replicate 5 false).length = s.sync.length ∧ List.replicate 5 false ≠ s.sync ∧ 37 ≤ 37 * s.T.cycles) := by
  decide

theorem witness_WaitDoneReachesTheCompletion :
    Inv (at' cfgB .latch 0 0 0) ∧ busyO (at' cfgB .latch 0 0 0) = true ∧
    Inv (at' cfgA .clkhi 0 16 0x10011) ∧ busyO (at' cfgA .clkhi 0 16 0x10011) = true := by decide

end Sys2Proof.Tests
end

section
/-! SUPPORT and PROOFS. The outputs as functions of the phase (spec/10_state.md R22, R23, R26), the reset values of one
RESET edge (R45) and the edge that writes 1 to `DONE` (R38). -/

namespace Sys2Proof.Machine

/-! The lines and `busy_o`, by the phase. -/

@[simp] theorem strobeO_eq_true_iff (s : State) : strobeO s = true ↔ s.phase = .latch := by
  simp [strobeO]

@[simp] theorem clockO_eq_false_iff (s : State) : clockO s = false ↔ s.phase = .clklo := by
  simp [clockO]

@[simp] theorem busyO_eq_false_iff (s : State) : busyO s = false ↔ s.phase = .idle := by
  simp [busyO]

theorem strobeO_congr {s t : State} (h : s.phase = t.phase) : strobeO s = strobeO t := by
  unfold strobeO
  rw [h]

theorem clockO_congr {s t : State} (h : s.phase = t.phase) : clockO s = clockO t := by
  unfold clockO
  rw [h]

theorem busyO_congr {s t : State} (h : s.phase = t.phase) : busyO s = busyO t := by
  unfold busyO
  rw [h]

/-- R22, R23, R26: in `IDLE` the strobe rests at 0, the clock at 1, and the block is not busy. -/
theorem outputs_of_idle {s : State} (h : s.phase = .idle) :
    strobeO s = false ∧ clockO s = true ∧ busyO s = false := by
  refine ⟨Bool.eq_false_iff.mpr ?_, Bool.eq_true_of_not_eq_false ?_, (busyO_eq_false_iff s).mpr h⟩
  · simp [h]
  · simp [h]

/-- Settles O32: each line tests the phase for one value. -/
theorem linesAreFunctionsOfThePhase : Obligations.LinesAreFunctionsOfThePhase :=
  ⟨fun s => ⟨strobeO_eq_true_iff s, clockO_eq_false_iff s, busyO_eq_false_iff s⟩,
   fun _ _ h => ⟨strobeO_congr h, clockO_congr h, busyO_congr h⟩⟩

/-! The RESET edge. -/

theorem step_reset {s : State} (hr : (hostPins s).rst = true) :
    step s = .next (closeReset s (resetRegisters s)) := by
  rw [step_eq_next, afterEdge_reset hr]

/-- Settles O30: closing a RESET edge keeps what `resetRegisters` wrote, SYNC_SHIFT does not run in it, and the lines
follow from the phase `IDLE`. -/
theorem oneResetEdgeFixesEveryRegister : Obligations.OneResetEdgeFixesEveryRegister := by
  intro s hr
  obtain ⟨hstrobe, hclock, hbusy⟩ := outputs_of_idle (s := closeReset s (resetRegisters s)) rfl
  have hlen : (resetRegisters s).sync.length = s.sync.length := by simp
  have hones : ∀ b ∈ (resetRegisters s).sync, b = true := fun _ hb => List.eq_of_mem_replicate hb
  exact ⟨_, step_reset hr, rfl, rfl, rfl, rfl, hlen, hones, rfl, rfl, rfl, rfl, hbusy, hstrobe, hclock, rfl⟩

/-! The edge that writes 1 to `DONE`. -/

@[simp] theorem recoverReserved_done (s : State) : (recoverReserved s).done = false := rfl

/-- R38, over the cases of one edge: only `complete` writes 1, and every other case contradicts a part of the condition. -/
theorem EdgeCase.done_eq_true_iff {s t : State} (h : EdgeCase s t) :
    t.done = true ↔
      (hostPins s).rst = false ∧ s.phase = .clkhi ∧ s.tcnt = s.T.cycles - 1 ∧ s.bidx.val = 16 := by
  cases h with
  | complete hr hp ht hb => simp [hr, hp, ht, hb]
  | reset hr => simp [hr]
  | start _ hp _ | nop _ hp _ | latchHold _ hp _ | latchEnd _ hp _ | settleHold _ hp _ | settleEnd _ hp _
  | clkloHold _ hp _ | clkloEnd _ hp _ | recover _ _ hp => simp [hp]
  | clkhiHold _ _ ht => simp [ht]
  | clkhiNext _ _ _ hb => simp [hb]

/-- Settles O34, by the cases of one edge. -/
theorem doneIsSetByTheCompletingStepOnly : Obligations.DoneIsSetByTheCompletingStepOnly :=
  fun _ _ h => (edgeCase_of_step h).done_eq_true_iff

end Sys2Proof.Machine
end

section
/-! SUPPORT and PROOFS. The opcode map of R74 as masks on the selector's fields (R71): a row's mask keeps the fields that
the row fixes, so a matching selector is `selectorOf` with the remaining fields free; and the decoder accepts a selector
exactly where one row matches it. -/

namespace Sys2Proof

/-! What a mask of the opcode map keeps of the selector's fields. -/

/-- R71: a selector is its three fields. -/
theorem selectorOf_fields : ∀ w : Sel, selectorOf (Sel.rst w) (Sel.start w) (Sel.phase w) = w := by decide

theorem Sel_rst_and_0x10 (w : Sel) : Sel.rst (w &&& 0x10#5) = Sel.rst w := by simp [Sel.rst]

theorem Sel_rst_and_0x17 (w : Sel) : Sel.rst (w &&& 0x17#5) = Sel.rst w := by simp [Sel.rst]

theorem Sel_phase_and_0x17 : ∀ w : Sel, Sel.phase (w &&& 0x17#5) = Sel.phase w := by decide

/-- The mask `0x10` keeps `rst` alone: a match fixes it and leaves `start_i` and the phase free. -/
theorem eq_selectorOf_of_and_0x10 {w : Sel} (h : w &&& 0x10#5 = 0x10#5) :
    w = selectorOf true (Sel.start w) (Sel.phase w) := by
  have hrst : Sel.rst w = true := by rw [← Sel_rst_and_0x10, h]; rfl
  rw [← hrst, selectorOf_fields]

/-- The mask `0x17` leaves out `start_i` alone: a match fixes `rst` and the phase. -/
theorem eq_selectorOf_of_and_0x17 {w : Sel} {p : Phase} (h : w &&& 0x17#5 = selectorOf false false p) :
    w = selectorOf false (Sel.start w) p := by
  have hrst : Sel.rst w = false := by rw [← Sel_rst_and_0x17, h, Sel_rst_selectorOf]
  have hphase : Sel.phase w = p := by rw [← Sel_phase_and_0x17, h, Sel_phase_selectorOf]
  rw [← hrst, ← hphase, selectorOf_fields]

/-- The mask `0x1F` leaves out no bit. -/
theorem eq_of_and_0x1F {w v : Sel} (h : w &&& 0x1F#5 = v) : w = v := by
  rwa [show (0x1F#5 : Sel) = BitVec.allOnes 5 from rfl, BitVec.and_allOnes] at h

/-! The row of a selector that the decoder accepts. -/

/-- Every operation hits its own row and no other, and a datapath operation hits none. -/
theorem oneRow_statement (i : Instr) : Laws.OneRow.Statement i := by
  cases i with
  | reset start phase => exact Laws.OneRow.reset start phase
  | idleNop => exact Laws.OneRow.idleNop
  | readStart => exact Laws.OneRow.readStart
  | latchStep start => exact Laws.OneRow.latchStep start
  | settleStep start => exact Laws.OneRow.settleStep start
  | clkloStep start => exact Laws.OneRow.clkloStep start
  | clkhiStep start => exact Laws.OneRow.clkhiStep start
  | syncShift => exact Laws.OneRow.syncShift
  | remap => exact Laws.OneRow.remap
  | resolveUd => exact Laws.OneRow.resolveUd
  | resolveLr => exact Laws.OneRow.resolveLr
  | presenceGate => exact Laws.OneRow.presenceGate
  | decode => exact Laws.OneRow.decode

/-- A selector that encodes an operation hits exactly one row. -/
theorem rows_length_of_encodeSel {i : Instr} {w : Sel} (h : encodeSel i = some w) :
    (selectorRows.filter fun r => r.hits w).length = 1 := by
  have hrow : some ((selectorRows.filter fun r => r.hits w).map (·.mnemonic)) =
      (Instr.rowName i).map fun n => [n] := by
    simpa [Laws.OneRow.Statement, h] using oneRow_statement i
  obtain ⟨n, -, hn⟩ := Option.map_eq_some_iff.mp hrow.symm
  simpa using congrArg List.length hn.symm

/-- R74: a selector with `rst == 1` or a named phase encodes an operation. -/
theorem exists_encodeSel_of_reachable {r st : Level} {p : Phase} (h : r = true ∨ p.isNamed = true) :
    ∃ i, encodeSel i = some (selectorOf r st p) := by
  cases r with
  | true => exact ⟨.reset st p, rfl⟩
  | false =>
    cases p with
    | idle => cases st with
      | false => exact ⟨.idleNop, rfl⟩
      | true => exact ⟨.readStart, rfl⟩
    | latch => exact ⟨.latchStep st, rfl⟩
    | settle => exact ⟨.settleStep st, rfl⟩
    | clklo => exact ⟨.clkloStep st, rfl⟩
    | clkhi => exact ⟨.clkhiStep st, rfl⟩
    | reserved q => simp [Phase.isNamed] at h

/-- R72, R73: the phase bits 0 to 4 name a phase. -/
theorem Phase.isNamed_ofBits : ∀ b : BitVec 3, b.toNat ≤ 4 → (Phase.ofBits b).isNamed = true := by decide

/-- R74: "Exactly one row matches each reachable selector value". -/
theorem rows_length_of_reachable (w : Sel) (h : w.getLsbD 4 = true ∨ (w.extractLsb' 0 3).toNat ≤ 4) :
    (selectorRows.filter fun r => r.hits w).length = 1 := by
  have hreach : Sel.rst w = true ∨ (Sel.phase w).isNamed = true := h.imp_right (Phase.isNamed_ofBits _)
  obtain ⟨i, hi⟩ := exists_encodeSel_of_reachable (st := Sel.start w) hreach
  rw [selectorOf_fields] at hi
  exact rows_length_of_encodeSel hi

/-- R74: "`start` is a don't-care outside `IDLE`"; the four meanings do not read their operand. -/
theorem Machine.startIsIgnored (s : Machine.State) : Machine.StartIsIgnored s :=
  fun _ _ => ⟨rfl, rfl, rfl, rfl⟩

/-! What the decoder answers, row by row. -/

theorem decodeSel_of_and_0x10 {w : Sel} (h : w &&& 0x10#5 = 0x10#5) :
    decodeSel w = .ok (.reset (Sel.start w) (Sel.phase w)) :=
  (congrArg decodeSel (eq_selectorOf_of_and_0x10 h)).trans (decodeSel_selectorOf _ _ _)

theorem decodeSel_of_and_0x1F {w : Sel} {st : Level} (h : w &&& 0x1F#5 = selectorOf false st .idle) :
    decodeSel w = .ok (if st then .readStart else .idleNop) :=
  (congrArg decodeSel (eq_of_and_0x1F h)).trans (decodeSel_selectorOf _ _ _)

theorem decodeSel_of_and_0x17 {w : Sel} {p : Phase} (h : w &&& 0x17#5 = selectorOf false false p) :
    decodeSel w = decodeSel (selectorOf false (Sel.start w) p) :=
  congrArg decodeSel (eq_selectorOf_of_and_0x17 h)

/-- Settles O1: each mask fixes the fields that the decoder branches on, and a reachable selector encodes an operation,
which has one row. -/
theorem selectorMapOfTheOpcodeTable : Obligations.SelectorMapOfTheOpcodeTable := by
  refine ⟨Machine.startIsIgnored, fun w => ?_⟩
  have row {p : Phase} (h : w &&& 0x17#5 = selectorOf false false p) :=
    (decodeSel_of_and_0x17 h).trans (decodeSel_selectorOf false (Sel.start w) p)
  exact ⟨decodeSel_of_and_0x10, decodeSel_of_and_0x1F (st := false), decodeSel_of_and_0x1F (st := true),
    row (p := .latch), row (p := .settle), row (p := .clklo), row (p := .clkhi),
    row (p := .reserved .p101), row (p := .reserved .p110), row (p := .reserved .p111), rows_length_of_reachable w⟩

end Sys2Proof
end

section
/-! SUPPORT and PROOFS. The idle block and the start of a read (spec/40_protocol_reader.md R101, R102), and the sampled
level (R108). A run of IDLE_NOP edges keeps the block at rest (`AtRest`), edge by edge. -/

namespace Sys2Proof.Machine

/-! The operations that the selector chooses in `IDLE`. -/

theorem exec_idleNop (s : State) : exec .idleNop s = .next (clearDone s) := rfl

theorem exec_readStart (s : State) : exec .readStart s = .next (beginRead s) := rfl

/-- R71, R74: in `IDLE` with `rst == 0` the level of `start_i` chooses the operation. -/
theorem decodeSel_selector_of_idle {s : State} (hp : s.phase = .idle) (hr : (hostPins s).rst = false) :
    decodeSel (selector s) = .ok (if (hostPins s).start then .readStart else .idleNop) := by
  rw [selector, hr, hp]
  exact decodeSel_selectorOf false _ .idle

/-! The idle block over any number of edges (R101). -/

/-- `t` is idle and holds the result, the raw sample and the counters of `s`: what R101 says IDLE_NOP keeps. -/
structure AtRest (s t : State) : Prop where
  phase : t.phase = .idle
  stateReg : t.stateReg = s.stateReg
  raw : t.raw = s.raw
  bidx : t.bidx = s.bidx
  tcnt : t.tcnt = s.tcnt

theorem afterEdge_idleNop {s : State} (hp : s.phase = .idle) (hpins : hostPins s = { rst := false, start := false }) :
    afterEdge s = closeEdge s (clearDone s) := by
  rw [afterEdge_idle (by rw [hpins]) hp, hpins]
  rfl

/-- One IDLE_NOP edge keeps the block at rest. -/
theorem AtRest.next {s t : State} (h : AtRest s t) (hpins : hostPins t = { rst := false, start := false }) :
    AtRest s (afterEdge t) := by
  rw [afterEdge_idleNop h.phase hpins]
  exact ⟨h.phase, h.stateReg, h.raw, h.bidx, h.tcnt⟩

theorem atRest_afterEdges {s : State} (hp : s.phase = .idle) (n : Nat)
    (hpins : ∀ e, e < n → hostAt s e = { rst := false, start := false }) : AtRest s (afterEdges n s) := by
  induction n with
  | zero => exact ⟨hp, rfl, rfl, rfl, rfl⟩
  | succ n ih =>
    have hrest := ih fun e he => hpins e (he.trans n.lt_succ_self)
    rw [afterEdges_last]
    exact hrest.next ((hostPins_afterEdges n s).trans (hpins n n.lt_succ_self))

/-- The last of the IDLE_NOP edges leaves `DONE` at 0. -/
theorem done_afterEdges_of_idle {s : State} (hp : s.phase = .idle) {n : Nat} (hn : 0 < n)
    (hpins : ∀ e, e < n → hostAt s e = { rst := false, start := false }) : (afterEdges n s).done = false := by
  obtain ⟨m, rfl⟩ := Nat.exists_eq_add_one.mpr hn
  have hrest := atRest_afterEdges hp m fun e he => hpins e (he.trans m.lt_succ_self)
  have hlast := (hostPins_afterEdges m s).trans (hpins m m.lt_succ_self)
  rw [afterEdges_last, afterEdge_idleNop hrest.phase hlast, closeEdge_done, clearDone_done]

/-- Settles O7: IDLE_NOP is `clearDone`, the lines follow from the phase `IDLE`, and a run of such edges stays at rest. -/
theorem idleNopClearsDoneOnly : Obligations.IdleNopClearsDoneOnly := by
  refine ⟨fun w h => decodeSel_of_and_0x1F (st := false) h, exec_idleNop, ?_, ?_⟩
  · intro s t hp ht
    obtain rfl : clearDone s = t := Host.Outcome.next.inj ((exec_idleNop s).symm.trans ht)
    obtain ⟨hstrobe, hclock, hbusy⟩ := outputs_of_idle (s := clearDone s) hp
    exact ⟨clearDone_done s, hbusy, hstrobe, hclock⟩
  · intro n s hp hpins
    obtain ⟨hphase, hstate, hraw, hbidx, htcnt⟩ := atRest_afterEdges hp n hpins
    exact ⟨hphase, hstate, hraw, hbidx, htcnt, fun hn => done_afterEdges_of_idle hp hn hpins⟩

/-! The start of a read (R102). -/

/-- R22, R26: in `LATCH` the strobe is 1 and the block is busy. -/
theorem outputs_of_latch {s : State} (h : s.phase = .latch) : strobeO s = true ∧ busyO s = true := by
  refine ⟨(strobeO_eq_true_iff s).mpr h, Bool.eq_true_of_not_eq_false ?_⟩
  simp [h]

/-- Settles O8: READ_START is `beginRead`, the strobe and `busy_o` follow from the phase `LATCH`, and the selector does not
contain `DONE`. -/
theorem readStartOpensARead : Obligations.ReadStartOpensARead := by
  refine ⟨fun w h => decodeSel_of_and_0x1F (st := true) h, fun s => ?_, fun s hp hpins _ => ?_⟩
  · obtain ⟨hstrobe, hbusy⟩ := outputs_of_latch (beginRead_phase s)
    exact ⟨_, exec_readStart s, rfl, hbusy, beginRead_done s, beginRead_stateReg s, hstrobe⟩
  · rw [decodeSel_selector_of_idle hp (by rw [hpins]), hpins]
    rfl

/-! The sampled level (R108). -/

/-- R108 with a chain: its last stage is the sampled level. -/
theorem getElem?_last_of_sync_ne_nil {s : State} (h : s.sync ≠ []) :
    s.sync[s.sync.length - 1]? = some (dsamp s) := by
  have hlast : s.sync[s.sync.length - 1]? = some (s.sync.getLast h) := by
    rw [← List.getLast?_eq_getElem?, List.getLast?_eq_some_getLast h]
  rw [dsamp_of_getElem? hlast, hlast]

/-- Settles O14, by whether the chain is empty. -/
theorem sampledLevelIsTheLastStage : Obligations.SampledLevelIsTheLastStage := by
  intro s
  constructor
  · exact fun hS => dsamp_of_nil (List.length_eq_zero_iff.mp hS)
  · exact fun hS => getElem?_last_of_sync_ne_nil (mt List.length_eq_zero_iff.mpr hS)

end Sys2Proof.Machine
end

section
/-! SUPPORT and PROOFS. The exceptions family (spec/60_exceptions.md): nothing stops the block (R170), and the priority of
simultaneous inputs (R174), with a completion and a request in succession. -/

namespace Sys2Proof.Machine

/-! The block never stops (R170). -/

/-- R170: every operation is total, since each arm of `exec` answers a next state outright. -/
theorem exec_next (i : Instr) (s : State) : ∃ t, exec i s = .next t := by
  cases i <;> exact ⟨_, rfl⟩

/-- A run goes on from the state that a step answers. -/
theorem run_succ_of_step {M : Host.Core} {s t : M.State} (h : M.step s = .next t) (n : Nat) :
    M.run (n + 1) s = M.run n t := by
  rw [Host.Core.run, h]

/-- Since a step always answers, a run through the host's interface is as long as asked for. -/
theorem core_run_eq_next (n : Nat) (s : State) : Sys2Proof.core.run n s = .next (afterEdges n s) := by
  induction n generalizing s with
  | zero => rfl
  | succ n ih => exact (run_succ_of_step (step_eq_next s) n).trans (ih (afterEdge s))

/-- Settles O28: the fault type has no constructor, every arm and every step answers, and a run is an induction on its
edges. -/
theorem blockNeverStops : Obligations.BlockNeverStops :=
  ⟨⟨nofun⟩, exec_next, fun s => ⟨_, step_eq_next s⟩, core_run_eq_next⟩

/-! The priority of simultaneous inputs (R174). -/

/-- R174: RESET wins, whatever `start_i` and the phase are. -/
theorem decodeSel_selector_of_rst {s : State} (hr : (hostPins s).rst = true) :
    decodeSel (selector s) = .ok (.reset (hostPins s).start s.phase) := by
  rw [selector, hr]
  exact decodeSel_selectorOf true _ _

/-- R71: with `rst == 0` the selector is `start_i` and the phase. -/
theorem selector_of_run {s : State} {p : Phase} (hr : (hostPins s).rst = false) (hp : s.phase = p) :
    selector s = selectorOf false (hostPins s).start p := by
  rw [selector, hr, hp]

/-- R106: the completing edge of a read. -/
theorem afterEdge_complete {s : State} (hr : (hostPins s).rst = false) (hp : s.phase = .clkhi)
    (ht : s.tcnt = s.T.cycles - 1) (hb : s.bidx.val = 16) :
    afterEdge s = closeEdge s (completeRead (decodeRaw s.raw) s) := by
  have hlast : s.bidx = Config.lastPosition := Fin.ext hb
  rw [afterEdge_clkhi hr hp, waitFor_end _ ht, if_pos hlast]

/-- R102: the edge that accepts a request. -/
theorem afterEdge_readStart {s : State} (hp : s.phase = .idle) (hpins : hostPins s = { rst := false, start := true }) :
    afterEdge s = closeEdge s (beginRead s) := by
  rw [afterEdge_idle (by rw [hpins]) hp, hpins]
  rfl

/-- R174: a completion and a request do not collide. The request at the completing edge meets a CLKHI_STEP; the one at the
next edge meets `IDLE` and is accepted. -/
theorem request_accepted_after_completion {s : State} (hp : s.phase = .clkhi) (ht : s.tcnt = s.T.cycles - 1)
    (hb : s.bidx.val = 16) (h0 : hostAt s 0 = { rst := false, start := true })
    (h1 : hostAt s 1 = { rst := false, start := true }) :
    doneO (afterEdges 1 s) = true ∧ (afterEdges 1 s).phase = .idle ∧
    decodeSel (selector (afterEdges 1 s)) = .ok .readStart ∧ (afterEdges 2 s).phase = .latch := by
  have hr : (hostPins s).rst = false := by rw [hostPins_eq_hostAt_zero, h0]
  have hdone : afterEdges 1 s = closeEdge s (completeRead (decodeRaw s.raw) s) := afterEdge_complete hr hp ht hb
  have hidle : (afterEdges 1 s).phase = .idle := by rw [hdone, closeEdge_phase, completeRead_phase]
  have hpins : hostPins (afterEdges 1 s) = { rst := false, start := true } := (hostPins_afterEdges 1 s).trans h1
  refine ⟨?_, hidle, ?_, ?_⟩
  · rw [hdone, doneO, closeEdge_done, completeRead_done]
  · rw [decodeSel_selector_of_idle hidle (by rw [hpins]), hpins]
    rfl
  · rw [afterEdges_last, afterEdge_readStart hidle hpins, closeEdge_phase, beginRead_phase]

/-- Settles O31: the decoder reads `rst`, then the phase, and `start_i` in `IDLE` alone; the completing edge leaves the block
in `IDLE`, where the next edge takes the request. -/
theorem priorityOfSimultaneousInputs : Obligations.PriorityOfSimultaneousInputs := by
  have busy {s : State} {p : Phase} (hr : (hostPins s).rst = false) (hp : s.phase = p) :=
    (congrArg decodeSel (selector_of_run hr hp)).trans (decodeSel_selectorOf false _ p)
  exact ⟨fun s hr => ⟨_, _, decodeSel_selector_of_rst hr⟩,
    fun s hr hp => decodeSel_selector_of_idle hp hr,
    fun s => busy (p := .latch), fun s => busy (p := .settle), fun s => busy (p := .clklo), fun s => busy (p := .clkhi),
    startIsIgnored, fun _ => request_accepted_after_completion⟩

end Sys2Proof.Machine
end

section
/-! SUPPORT and PROOFS. A request while the block is busy (spec/70_reset_and_hazards.md R202, R25). The operation of a busy
edge neither reads `start_i` nor touches the host's queue, and the close of the edge uses up the pins of that edge, so the
level of `start_i` is gone after it. -/

namespace Sys2Proof.Machine

/-! The host's queue passes through the parts of an edge. -/

@[simp] theorem hostPins_queuePins_cons (p : HostPins) (later : List HostPins) (s : State) :
    hostPins (queuePins (p :: later) s) = p := rfl

@[simp] theorem sampledLevel_queuePins (pins : List HostPins) (s : State) :
    sampledLevel (queuePins pins s) = sampledLevel s := rfl

@[simp] theorem resetRegisters_queuePins (pins : List HostPins) (s : State) :
    resetRegisters (queuePins pins s) = queuePins pins (resetRegisters s) := rfl

@[simp] theorem recoverReserved_queuePins (pins : List HostPins) (s : State) :
    recoverReserved (queuePins pins s) = queuePins pins (recoverReserved s) := rfl

@[simp] theorem enterPhase_queuePins (pins : List HostPins) (p : Phase) (s : State) :
    enterPhase p (queuePins pins s) = queuePins pins (enterPhase p s) := rfl

@[simp] theorem captureSample_queuePins (pins : List HostPins) (b : Level) (s : State) :
    captureSample b (queuePins pins s) = queuePins pins (captureSample b s) := rfl

@[simp] theorem nextPosition_queuePins (pins : List HostPins) (s : State) :
    nextPosition (queuePins pins s) = queuePins pins (nextPosition s) := rfl

@[simp] theorem completeRead_queuePins (pins : List HostPins) (d : LogicalWord) (s : State) :
    completeRead d (queuePins pins s) = queuePins pins (completeRead d s) := rfl

@[simp] theorem waitFor_queuePins (pins : List HostPins) (len : Nat) (s atEnd : State) :
    waitFor len (queuePins pins s) (queuePins pins atEnd) = queuePins pins (waitFor len s atEnd) := by
  rcases waitFor_cases len s atEnd with ⟨ht, e⟩ | ⟨ht, e⟩ <;> rw [e]
  · exact waitFor_end _ ht
  · exact waitFor_tick _ ht

/-- The close of an edge uses up the pins of that edge, whatever they are. -/
theorem closeEdge_queuePins_cons (p : HostPins) (later : List HostPins) (s t : State) :
    closeEdge (queuePins (p :: later) s) (queuePins (p :: later) t) = queuePins later (closeEdge s t) := rfl

/-- So does the close of a RESET edge. -/
theorem closeReset_queuePins_cons (p : HostPins) (later : List HostPins) (s t : State) :
    closeReset (queuePins (p :: later) s) (queuePins (p :: later) t) = queuePins later (closeReset s t) := rfl

/-! An edge outside `IDLE`. -/

/-- R74, R202: outside `IDLE` the selected operation leads to one state `t`, whatever `start_i` is. -/
theorem execSelected_queuePins_of_ne_idle {s : State} (hp : s.phase ≠ .idle) (r : Level) (later : List HostPins) :
    ∃ t, ∀ st, execSelected (queuePins (⟨r, st⟩ :: later) s) = .next (queuePins (⟨r, st⟩ :: later) t) := by
  simp only [execSelected_eq, hostPins_queuePins_cons, queuePins_phase]
  cases r with
  | true => exact ⟨resetRegisters s, by simp⟩
  | false =>
    cases h : s.phase with
    | idle => exact absurd h hp
    | latch => exact ⟨waitFor (2 * s.T.cycles) s (enterPhase .settle s), by simp⟩
    | settle => exact ⟨waitFor s.T.cycles s (enterPhase .clklo s), by simp⟩
    | clklo => exact ⟨waitFor s.T.cycles s (enterPhase .clkhi (captureSample (sampledLevel s) s)), by simp⟩
    | clkhi =>
      by_cases hb : s.bidx = Config.lastPosition
      · exact ⟨waitFor s.T.cycles s (completeRead (decodeRaw s.raw) s), by simp [hb]⟩
      · exact ⟨waitFor s.T.cycles s (enterPhase .clklo (nextPosition s)), by simp [hb]⟩
    | reserved q => exact ⟨recoverReserved s, by simp⟩

/-- R202: outside `IDLE` a step leads to one state, whatever `start_i` is. -/
theorem step_queuePins_of_ne_idle {s : State} (hp : s.phase ≠ .idle) (r : Level) (later : List HostPins) :
    ∃ t, ∀ st, step (queuePins (⟨r, st⟩ :: later) s) = .next t := by
  obtain ⟨t, ht⟩ := execSelected_queuePins_of_ne_idle hp r later
  refine ⟨queuePins later (if r then closeReset s t else closeEdge s t), fun st => ?_⟩
  rw [step_of_selected (ht st), hostPins_queuePins_cons]
  cases r with
  | false => exact congrArg Host.Outcome.next (closeEdge_queuePins_cons ⟨false, st⟩ later s t)
  | true => exact congrArg Host.Outcome.next (closeReset_queuePins_cons ⟨true, st⟩ later s t)

/-- Settles O33: both levels of `start_i` lead to the one state of `step_queuePins_of_ne_idle`. -/
theorem requestWhileBusyIsDropped : Obligations.RequestWhileBusyIsDropped := by
  intro s r later hp
  obtain ⟨t, ht⟩ := step_queuePins_of_ne_idle hp r later
  exact (ht true).trans (ht false).symm

end Sys2Proof.Machine
end

section
/-! SUPPORT and PROOFS. The encoding (spec/30_encoding.md sections 1, 2 and 5): `encodeSel` and `decodeSel` are inverse to each
other on the operations that have a selector, and one byte carries a selector in its low five bits. -/

namespace Sys2Proof

/-! Between operations and selectors. -/

/-- R70, R75: exactly the well-formed operations have a selector. -/
theorem wellFormed_iff_exists_encodeSel (i : Instr) : i.WellFormed ↔ ∃ w, encodeSel i = some w := by
  cases i <;> simp [Instr.WellFormed, Instr.format, encodeSel]

theorem decodeSel_of_encodeSel {i : Instr} {w : Sel} (h : encodeSel i = some w) : decodeSel w = .ok i := by
  cases i <;> cases h <;> exact decodeSel_selectorOf _ _ _

/-- The operation of a decoded selector carries every field that its row leaves free. -/
theorem encodeSel_of_decodeSel {i : Instr} {w : Sel} (h : decodeSel w = .ok i) : encodeSel i = some w := by
  rw [← selectorOf_fields w] at h ⊢
  generalize Sel.rst w = r, Sel.start w = st, Sel.phase w = p at h ⊢
  rw [decodeSel_selectorOf] at h
  cases r with
  | true => cases h; rfl
  | false =>
    cases p with
    | idle => cases st <;> cases h <;> rfl
    | latch | settle | clklo | clkhi => cases h; rfl
    | reserved q => cases h

/-! Between selectors and bytes. -/

theorem upperBits_selectorByte : ∀ w : Sel, (0#3 ++ w : Byte).extractLsb' 5 3 = 0#3 := by decide

theorem lowerBits_selectorByte : ∀ w : Sel, (0#3 ++ w : Byte).extractLsb' 0 5 = w := by decide

theorem selectorByte_lowerBits : ∀ b : Byte, b.extractLsb' 5 3 = 0#3 → (0#3 ++ b.extractLsb' 0 5 : Byte) = b := by
  decide

theorem encode_of_encodeSel {i : Instr} {w : Sel} (h : encodeSel i = some w) : encode i = [(0#3 ++ w : Byte)] := by
  rw [encode, h]

theorem decodeBytes_selectorByte {i : Instr} {w : Sel} (h : decodeSel w = .ok i) (rest : List Byte) :
    decodeBytes ((0#3 ++ w : Byte) :: rest) = .ok (i, rest) := by
  rw [decodeBytes, if_pos (upperBits_selectorByte w), lowerBits_selectorByte, h]

/-- All that an accepted list of bytes can be: one selector that decodes, in its byte, and the rest. -/
theorem decodeBytes_eq_ok {bs rest : List Byte} {i : Instr} (h : decodeBytes bs = .ok (i, rest)) :
    ∃ w, decodeSel w = .ok i ∧ bs = (0#3 ++ w : Byte) :: rest := by
  cases bs with
  | nil => cases h
  | cons b tail =>
    rw [decodeBytes] at h
    split at h
    next hupper =>
      split at h
      next j hj =>
        cases h
        exact ⟨_, hj, by rw [selectorByte_lowerBits b hupper]⟩
      next => cases h
    next => cases h

/-- Settles O3: a well-formed operation has a selector, which decodes back, and its byte carries it. -/
theorem encodedOperationsDecodeBack : Obligations.EncodedOperationsDecodeBack := by
  intro i rest hi
  obtain ⟨w, hw⟩ := (wellFormed_iff_exists_encodeSel i).mp hi
  refine ⟨⟨w, hw, decodeSel_of_encodeSel hw⟩, ?_⟩
  rw [encode_of_encodeSel hw]
  exact decodeBytes_selectorByte (decodeSel_of_encodeSel hw) rest

/-- Settles O4: accepted bytes are the byte of a selector that decodes to the operation, so the operation encodes to it. -/
theorem acceptedBytesEncodeBack : Obligations.AcceptedBytesEncodeBack := by
  intro bs rest i h
  obtain ⟨w, hw, rfl⟩ := decodeBytes_eq_ok h
  have henc := encodeSel_of_decodeSel hw
  refine ⟨(wellFormed_iff_exists_encodeSel i).mpr ⟨w, henc⟩, ?_⟩
  rw [encode_of_encodeSel henc]
  rfl

/-- R70: a datapath operation has "no selector bits". -/
theorem encodeSel_of_datapath {i : Instr} (h : i.format = .datapath) : encodeSel i = none := by
  refine Option.eq_none_iff_forall_ne_some.mpr fun w hw => ?_
  have hfsm : i.format = .fsmStep := (wellFormed_iff_exists_encodeSel i).mpr ⟨w, hw⟩
  cases h.symm.trans hfsm

/-- Settles O5: no selector encodes to a datapath operation, and whatever decodes to an operation encodes it. -/
theorem datapathOperationsAreNeverSelected : Obligations.DatapathOperationsAreNeverSelected := by
  intro i hi
  have hnone : encodeSel i = none := encodeSel_of_datapath hi
  have hsel : ∀ w, decodeSel w ≠ .ok i := fun w hw => by
    cases hnone.symm.trans (encodeSel_of_decodeSel hw)
  refine ⟨by rw [encode, hnone], hsel, fun bs rest h => ?_⟩
  obtain ⟨w, hw, -⟩ := decodeBytes_eq_ok h
  exact hsel w hw

/-- Settles O2, by evaluation: nine closed selectors, one of them with an upper bit set. -/
theorem selectorsWrittenOutDecode : Obligations.SelectorsWrittenOutDecode := by
  unfold Obligations.SelectorsWrittenOutDecode
  decide

end Sys2Proof
end

section
/-! SUPPORT and PROOFS. The decode network (spec/41_state_decoder.md): the wiring of REMAP, the gates of the two cancellations
and of the presence gate, bit by bit for every word, and what follows for DECODE. -/

namespace Sys2Proof.Machine

/-! REMAP. -/

theorem getLsbD_remap (r : RawSample) (k : Nat) :
    (remap r).getLsbD k = Config.positions.any fun i => r.getLsbD i.val && (Config.LUT i).getLsbD k :=
  getLsbD_remapWith Config.LUT r k

/-- The fixed wiring that the table of R80 amounts to. -/
theorem remap_wiring (r : RawSample) :
    (remap r).getLsbD 0 = r.getLsbD 16 ∧ (remap r).getLsbD 1 = r.getLsbD 2 ∧ (remap r).getLsbD 2 = r.getLsbD 3 ∧
    (remap r).getLsbD 3 = r.getLsbD 4 ∧ (remap r).getLsbD 4 = r.getLsbD 5 ∧ (remap r).getLsbD 5 = r.getLsbD 6 ∧
    (remap r).getLsbD 6 = r.getLsbD 7 ∧ (remap r).getLsbD 7 = r.getLsbD 8 ∧ (remap r).getLsbD 8 = r.getLsbD 9 ∧
    (remap r).getLsbD 9 = r.getLsbD 0 ∧ (remap r).getLsbD 10 = r.getLsbD 1 ∧ (remap r).getLsbD 11 = r.getLsbD 10 ∧
    (remap r).getLsbD 12 = r.getLsbD 11 ∧ (remap r).getLsbD 13 = false ∧ (remap r).getLsbD 14 = false ∧
    (remap r).getLsbD 15 = false := by
  simp [-BitVec.getLsbD_eq_getElem, getLsbD_remap, Config.positions, Config.LUT, Config.lutTable]

/-- R80: the positions 12 to 15 are wired to nothing. -/
theorem LUT_eq_zero : ∀ i : Position, 12 ≤ i.val → i.val ≤ 15 → Config.LUT i = 0x0000 := by decide

theorem remap_single_bit : ∀ i : Position, remap (1#17 <<< i.val) = Config.LUT i := by decide

/-- REMAP reads no bit at the positions 12 to 15. -/
theorem remap_congr {r r' : RawSample} (h : ∀ k, k < 17 → k < 12 ∨ 15 < k → r.getLsbD k = r'.getLsbD k) :
    remap r = remap r' := by
  have hbit (i : Position) (k : Nat) :
      (r.getLsbD i.val && (Config.LUT i).getLsbD k) = (r'.getLsbD i.val && (Config.LUT i).getLsbD k) := by
    by_cases hi : 12 ≤ i.val ∧ i.val ≤ 15
    · simp [LUT_eq_zero i hi.1 hi.2]
    · rw [h i.val i.isLt (by omega)]
  refine BitVec.eq_of_getLsbD_eq fun k _ => ?_
  simp only [getLsbD_remap, hbit]

/-- Settles O16: the wiring bit by bit, and the corner cases by evaluation. -/
theorem remapIsTheFixedWiring : Obligations.RemapIsTheFixedWiring :=
  ⟨fun s => ⟨_, remap s.raw, rfl, rfl, rfl, remap_wiring s.raw⟩, by decide, by decide, by decide,
    remap_single_bit, fun i hlo hhi => (remap_single_bit i).trans (LUT_eq_zero i hlo hhi)⟩

/-! The two cancellations. -/

section Pair

/-! A cancellation whose mask `pm` holds the two bits `a` and `b`. -/

variable {pm : LogicalWord} {a b : Nat} (hpm : ∀ k, k < 16 → (pm.getLsbD k = true ↔ k = a ∨ k = b))
  (ha : a < 16) (hb : b < 16)

include hpm ha hb

theorem xor_test_pair_iff (v : LogicalWord) :
    (v &&& pm) ^^^ pm = 0 ↔ v.getLsbD a = true ∧ v.getLsbD b = true := by
  rw [xor_test_iff]
  constructor
  · exact fun h => ⟨h a ha ((hpm a ha).mpr (.inl rfl)), h b hb ((hpm b hb).mpr (.inr rfl))⟩
  · rintro ⟨hva, hvb⟩ k hk hp
    rcases (hpm k hk).mp hp with rfl | rfl
    · exact hva
    · exact hvb

theorem getLsbD_resolve_pair (v : LogicalWord) (k : Nat) :
    (resolve v pm).getLsbD k =
      if k = a then v.getLsbD a && !v.getLsbD b
      else if k = b then v.getLsbD b && !v.getLsbD a
      else v.getLsbD k := by
  by_cases hv : (v &&& pm) ^^^ pm = 0
  case neg =>
    rw [resolve_of_not_all hv]
    rw [xor_test_pair_iff hpm ha hb] at hv
    by_cases hka : k = a
    · subst hka
      cases hva : v.getLsbD k <;> simp_all
    · by_cases hkb : k = b
      · subst hkb
        cases hvb : v.getLsbD k <;> simp_all
      · rw [if_neg hka, if_neg hkb]
  case pos =>
    obtain ⟨hva, hvb⟩ := (xor_test_pair_iff hpm ha hb v).mp hv
    by_cases hk : k < 16
    · rw [getLsbD_resolve_of_all hv k hk]
      by_cases hp : k = a ∨ k = b
      · have hbit : pm.getLsbD k = true := (hpm k hk).mpr hp
        rcases hp with rfl | rfl <;> simp [hva, hvb, hbit]
      · have hbit : pm.getLsbD k = false := Bool.eq_false_iff.mpr (mt (hpm k hk).mp hp)
        rw [if_neg fun e => hp (.inl e), if_neg fun e => hp (.inr e), hbit]
        exact Bool.and_true _
    · rw [if_neg (by omega), if_neg (by omega), BitVec.getLsbD_of_ge _ _ (by omega),
        BitVec.getLsbD_of_ge _ _ (by omega)]

end Pair

theorem UD_bits : ∀ k, k < 16 → (Config.UD.getLsbD k = true ↔ k = 3 ∨ k = 4) := by decide

theorem LR_bits : ∀ k, k < 16 → (Config.LR.getLsbD k = true ↔ k = 5 ∨ k = 6) := by decide

/-- R141 as gates. -/
theorem getLsbD_resolveUD (v : LogicalWord) (k : Nat) :
    (resolveUD v).getLsbD k =
      if k = 3 then v.getLsbD 3 && !v.getLsbD 4
      else if k = 4 then v.getLsbD 4 && !v.getLsbD 3
      else v.getLsbD k :=
  getLsbD_resolve_pair UD_bits (by decide) (by decide) v k

/-- R142 as gates. -/
theorem getLsbD_resolveLR (v : LogicalWord) (k : Nat) :
    (resolveLR v).getLsbD k =
      if k = 5 then v.getLsbD 5 && !v.getLsbD 6
      else if k = 6 then v.getLsbD 6 && !v.getLsbD 5
      else v.getLsbD k :=
  getLsbD_resolve_pair LR_bits (by decide) (by decide) v k

/-- Settles O17: the source's form is `resolve` itself, and the gates hold bit by bit. -/
theorem resolveUdCancelsUpAndDown : Obligations.ResolveUdCancelsUpAndDown :=
  ⟨fun s => ⟨_, resolveUD s.nets.mapped, rfl, rfl, rfl, getLsbD_resolveUD _ 3, getLsbD_resolveUD _ 4,
    fun k h3 h4 => by rw [getLsbD_resolveUD, if_neg h3, if_neg h4]⟩, by decide, by decide⟩

/-- Settles O18, as O17, for the other pair. -/
theorem resolveLrCancelsLeftAndRight : Obligations.ResolveLrCancelsLeftAndRight :=
  ⟨fun s => ⟨_, resolveLR s.nets.ud, rfl, rfl, rfl, getLsbD_resolveLR _ 5, getLsbD_resolveLR _ 6,
    fun k h5 h6 => by rw [getLsbD_resolveLR, if_neg h5, if_neg h6]⟩, by decide, by decide⟩

/-! The presence gate. -/

/-- R143 as gates. -/
theorem getLsbD_presenceGate (v : LogicalWord) (k : Nat) :
    (presenceGate v).getLsbD k = (v.getLsbD k && v.getLsbD 0) := by
  cases h : v.getLsbD 0 <;> simp [-BitVec.getLsbD_eq_getElem, presenceGate, h]

theorem presenceGate_of_present {v : LogicalWord} (h : v.getLsbD 0 = true) : presenceGate v = v := if_pos h

theorem presenceGate_of_absent {v : LogicalWord} (h : v.getLsbD 0 = false) : presenceGate v = 0x0000 :=
  if_neg (by rw [h]; decide)

/-- Settles O19, by whether the presence bit is set. -/
theorem presenceGateZeroesAnAbsentPad : Obligations.PresenceGateZeroesAnAbsentPad :=
  ⟨fun s => ⟨_, presenceGate s.nets.lr, rfl, rfl, presenceGate_of_present, presenceGate_of_absent,
    fun k _ => getLsbD_presenceGate _ k⟩, by decide, by decide⟩

/-! The laws between the three operations. -/

/-- The two pairs share no bit, and neither holds bit 0. -/
theorem resolveLR_resolveUD_comm (v : LogicalWord) : resolveLR (resolveUD v) = resolveUD (resolveLR v) := by
  refine BitVec.eq_of_getLsbD_eq fun k _ => ?_
  simp only [getLsbD_resolveLR, getLsbD_resolveUD]
  by_cases hud : k = 3 ∨ k = 4
  · rcases hud with rfl | rfl <;> rfl
  · by_cases hlr : k = 5 ∨ k = 6
    · rcases hlr with rfl | rfl <;> rfl
    · simp only [not_or] at hud hlr
      simp [hud, hlr]

/-- A cancellation whose gates pass bit 0 through, and answer 0 for the zero word, commutes with the presence gate. -/
theorem presenceGate_comm_of_bit_zero {f : LogicalWord → LogicalWord} (hbit : ∀ v, (f v).getLsbD 0 = v.getLsbD 0)
    (hzero : f 0x0000 = 0x0000) (v : LogicalWord) : presenceGate (f v) = f (presenceGate v) := by
  cases h : v.getLsbD 0 with
  | true => rw [presenceGate_of_present h, presenceGate_of_present ((hbit v).trans h)]
  | false => rw [presenceGate_of_absent h, presenceGate_of_absent ((hbit v).trans h), hzero]

theorem resolveUD_bit_zero (v : LogicalWord) : (resolveUD v).getLsbD 0 = v.getLsbD 0 := getLsbD_resolveUD v 0

theorem resolveLR_bit_zero (v : LogicalWord) : (resolveLR v).getLsbD 0 = v.getLsbD 0 := getLsbD_resolveLR v 0

/-- Settles O23: the pairs are disjoint, and a cancellation passes the presence bit through. -/
theorem orderOfCancellationAndGateDoesNotMatter : Obligations.OrderOfCancellationAndGateDoesNotMatter :=
  fun v => ⟨resolveLR_resolveUD_comm v, presenceGate_comm_of_bit_zero resolveUD_bit_zero (by decide) v,
    presenceGate_comm_of_bit_zero resolveLR_bit_zero (by decide) v⟩

theorem resolve_of_all {v pm : LogicalWord} (h : (v &&& pm) ^^^ pm = 0) : resolve v pm = v &&& ~~~pm := if_pos h

theorem and_not_and_self (v pm : LogicalWord) : v &&& ~~~pm &&& pm = 0 := by
  rw [BitVec.and_assoc, BitVec.and_comm (~~~pm), BitVec.and_not_self]
  exact BitVec.and_zero

theorem resolve_idempotent (v pm : LogicalWord) : resolve (resolve v pm) pm = resolve v pm := by
  by_cases h : (v &&& pm) ^^^ pm = 0
  · rw [resolve_of_all h]
    by_cases h' : (v &&& ~~~pm &&& pm) ^^^ pm = 0
    · rw [resolve_of_all h', BitVec.and_assoc, BitVec.and_self]
    · exact resolve_of_not_all h'
  · rw [resolve_of_not_all h, resolve_of_not_all h]

theorem resolve_and_ne {pm : LogicalWord} (v : LogicalWord) (hpm : pm ≠ 0) : resolve v pm &&& pm ≠ pm := by
  by_cases h : (v &&& pm) ^^^ pm = 0
  · rw [resolve_of_all h, and_not_and_self]
    exact hpm.symm
  · rw [resolve_of_not_all h]
    exact fun e => h (by rw [e, BitVec.xor_self]; rfl)

theorem presenceGate_idempotent (v : LogicalWord) : presenceGate (presenceGate v) = presenceGate v := by
  cases h : v.getLsbD 0 with
  | true => rw [presenceGate_of_present h, presenceGate_of_present h]
  | false => rw [presenceGate_of_absent h]; rfl

/-- Settles O24, by the XOR test of the mask and by the presence bit. -/
theorem cancellationIsIdempotentAndNeverLeavesThePair :
    Obligations.CancellationIsIdempotentAndNeverLeavesThePair :=
  fun v pm => ⟨resolve_idempotent v pm, resolve_and_ne v, presenceGate_idempotent v⟩

/-! DECODE. -/

/-- The bit 0 that both the presence check and the gate test is `RAW[16]`. -/
theorem remap_bit_zero (r : RawSample) : (remap r).getLsbD 0 = r.getLsbD 16 := (remap_wiring r).1

theorem decodeRaw_of_absent {r : RawSample} (h : (remap r).getLsbD 0 = false) : decodeRaw r = 0x0000 := if_pos h

theorem decodeRaw_of_present {r : RawSample} (h : (remap r).getLsbD 0 = true) :
    decodeRaw r = resolveLR (resolveUD (remap r)) := if_neg (by rw [h]; decide)

/-- R144: checking the presence first or gating last is the same. -/
theorem decodeRaw_eq_presenceGate (r : RawSample) :
    decodeRaw r = presenceGate (resolveLR (resolveUD (remap r))) := by
  have hbit : (resolveLR (resolveUD (remap r))).getLsbD 0 = (remap r).getLsbD 0 := by
    rw [resolveLR_bit_zero, resolveUD_bit_zero]
  cases h : (remap r).getLsbD 0 with
  | true => rw [decodeRaw_of_present h, presenceGate_of_present (hbit.trans h)]
  | false => rw [decodeRaw_of_absent h, presenceGate_of_absent (hbit.trans h)]

theorem getLsbD_decodeRaw (r : RawSample) (k : Nat) :
    (decodeRaw r).getLsbD k = (r.getLsbD 16 && (resolveLR (resolveUD (remap r))).getLsbD k) := by
  rw [decodeRaw_eq_presenceGate, getLsbD_presenceGate, resolveLR_bit_zero, resolveUD_bit_zero, remap_bit_zero,
    Bool.and_comm]

/-- Settles O21: each gate equation is the wiring of REMAP behind the gates of the two cancellations. -/
theorem decodeGateEquations : Obligations.DecodeGateEquations := by
  intro r
  simp [-BitVec.getLsbD_eq_getElem, getLsbD_decodeRaw, getLsbD_resolveLR, getLsbD_resolveUD, remap_wiring r,
    Bool.and_assoc]

theorem decodeRaw_bit_zero (r : RawSample) : (decodeRaw r).getLsbD 0 = r.getLsbD 16 := (decodeGateEquations r).1

theorem decodeRaw_upperBits (r : RawSample) :
    (decodeRaw r).getLsbD 13 = false ∧ (decodeRaw r).getLsbD 14 = false ∧ (decodeRaw r).getLsbD 15 = false := by
  obtain ⟨-, -, -, -, -, -, -, -, -, -, -, -, -, hupper⟩ := decodeGateEquations r
  exact hupper

/-- DECODE reads `RAW` through REMAP alone. -/
theorem decodeRaw_congr {r r' : RawSample} (h : ∀ k, k < 17 → k < 12 ∨ 15 < k → r.getLsbD k = r'.getLsbD k) :
    decodeRaw r = decodeRaw r' := by
  rw [decodeRaw, decodeRaw, remap_congr h]

/-- Settles O20: the two forms of DECODE agree, and its corner cases are those of the presence bit. -/
theorem decodeIsTheComposition : Obligations.DecodeIsTheComposition := by
  refine ⟨fun s => ⟨_, decodeRaw s.raw, rfl, rfl, rfl, decodeRaw_eq_presenceGate s.raw, decodeRaw_of_absent,
    decodeRaw_of_present, fun h => decodeRaw_of_absent ((remap_bit_zero s.raw).trans h), decodeRaw_bit_zero s.raw,
    decodeRaw_upperBits s.raw⟩, fun _ _ => decodeRaw_congr, by decide, by decide⟩

/-! The range of DECODE (R148). -/

/-- R148, one direction: every value of DECODE is legal. -/
theorem legalLogical_decodeRaw (r : RawSample) : LegalLogical (decodeRaw r) := by
  refine ⟨fun h => decodeRaw_of_absent ?_, ?_, ?_, decodeRaw_upperBits r⟩
  · rw [remap_bit_zero, ← decodeRaw_bit_zero, h]
  · cases h : r.getLsbD 4 <;> simp [-BitVec.getLsbD_eq_getElem, decodeGateEquations r, h]
  · cases h : r.getLsbD 6 <;> simp [-BitVec.getLsbD_eq_getElem, decodeGateEquations r, h]

/-- The logical bit that a shift position is wired to (R80); a bit that is 0 in every legal word at the four positions
without one. -/
def wiredTo : Position → Nat := ![9, 10, 1, 2, 3, 4, 5, 6, 7, 8, 11, 12, 13, 13, 13, 13, 0]

/-- A raw sample in which each position shows the logical bit that it is wired to. -/
def rawOf (d : LogicalWord) : RawSample := BitVec.ofFnLE fun i => d.getLsbD (wiredTo i)

theorem getLsbD_rawOf (d : LogicalWord) (i : Position) : (rawOf d).getLsbD i.val = d.getLsbD (wiredTo i) := by
  rw [rawOf, BitVec.getLsbD_ofFnLE, dif_pos i.isLt]

/-- The wiring loses no bit of a word whose upper three bits are 0. -/
theorem remap_rawOf {d : LogicalWord} (h13 : d.getLsbD 13 = false) (h14 : d.getLsbD 14 = false)
    (h15 : d.getLsbD 15 = false) : remap (rawOf d) = d := by
  refine BitVec.eq_of_getLsbD_eq fun k hk => ?_
  rw [getLsbD_remap]
  simp only [getLsbD_rawOf]
  interval_cases k <;>
    simp [-BitVec.getLsbD_eq_getElem, Config.positions, Config.LUT, Config.lutTable, wiredTo, h13, h14, h15]

theorem resolveUD_eq_self {v : LogicalWord} (h : ¬(v.getLsbD 3 = true ∧ v.getLsbD 4 = true)) : resolveUD v = v :=
  resolve_of_not_all (mt (xor_test_pair_iff UD_bits (by decide) (by decide) v).mp h)

theorem resolveLR_eq_self {v : LogicalWord} (h : ¬(v.getLsbD 5 = true ∧ v.getLsbD 6 = true)) : resolveLR v = v :=
  resolve_of_not_all (mt (xor_test_pair_iff LR_bits (by decide) (by decide) v).mp h)

/-- R148, the other direction: a legal word passes the whole network unchanged. -/
theorem decodeRaw_rawOf {d : LogicalWord} (h : LegalLogical d) : decodeRaw (rawOf d) = d := by
  obtain ⟨habsent, hud, hlr, h13, h14, h15⟩ := h
  have hremap : remap (rawOf d) = d := remap_rawOf h13 h14 h15
  cases h0 : d.getLsbD 0 with
  | false =>
    rw [decodeRaw_of_absent (by rw [hremap, h0])]
    exact (habsent h0).symm
  | true => rw [decodeRaw_of_present (by rw [hremap, h0]), hremap, resolveUD_eq_self hud, resolveLR_eq_self hlr]

/-- Settles O22: DECODE has legal values, and a legal word is the value of the sample that it is wired to. -/
theorem decodedWordsAreExactlyTheLegalOnes : Obligations.DecodedWordsAreExactlyTheLegalOnes :=
  fun d => ⟨fun h => ⟨rawOf d, decodeRaw_rawOf h⟩, fun ⟨r, hr⟩ => hr ▸ legalLogical_decodeRaw r⟩

/-! The source's accumulator (R150). -/

/-- A sample assembled position by position shows the last write at each position of the list. -/
theorem getLsbD_foldl_setBit (f : Position → Bool) (l : List Position) (r : RawSample) (i : Position) :
    (l.foldl (fun r i => setBit r i (f i)) r).getLsbD i.val = if i ∈ l then f i else r.getLsbD i.val := by
  induction l generalizing r with
  | nil => rfl
  | cons j rest ih =>
    rw [List.foldl_cons, ih, getLsbD_setBit]
    by_cases hrest : i ∈ rest
    · simp [hrest]
    · by_cases hij : i = j
      · simp [hij]
      · simp [hrest, hij, Fin.val_inj]

theorem mem_positions : ∀ i : Position, i ∈ Config.positions := by decide

/-- Settles O25: the assembled sample shows at each position the inverse of its level, so both loops test the same. -/
theorem accumulatorAgreesWithRemap : Obligations.AccumulatorAgreesWithRemap := by
  intro level acc raw
  have hraw (i : Position) : raw.getLsbD i.val = !level i :=
    (getLsbD_foldl_setBit (fun i => !level i) Config.positions 0 i).trans (if_pos (mem_positions i))
  have hacc : acc = remap raw := by
    simp only [acc, remap, remapWith, hraw, Bool.not_eq_true']
  exact ⟨hacc, hacc ▸ remap_bit_zero raw⟩

end Sys2Proof.Machine
end

section
/-! SUPPORT and PROOFS. The operations of the reader one by one (spec/40_protocol_reader.md R100, R103 to R107), what one edge
makes of each register (R109), and the invariants of the reachable states (spec/10_state.md R44). -/

namespace Sys2Proof.Machine

/-! The operations of a read in progress (R103 to R106). -/

theorem exec_latchStep (st : Level) (s : State) :
    exec (.latchStep st) s = .next (waitFor (2 * s.T.cycles) s (enterPhase .settle s)) := rfl

theorem exec_settleStep (st : Level) (s : State) :
    exec (.settleStep st) s = .next (waitFor s.T.cycles s (enterPhase .clklo s)) := rfl

theorem exec_clkloStep (st : Level) (s : State) :
    exec (.clkloStep st) s =
      .next (waitFor s.T.cycles s (enterPhase .clkhi (captureSample (sampledLevel s) s))) := rfl

theorem exec_clkhiStep (st : Level) (s : State) :
    exec (.clkhiStep st) s =
      .next (waitFor s.T.cycles s
        (if s.bidx = Config.lastPosition then completeRead (decodeRaw s.raw) s
         else enterPhase .clklo (nextPosition s))) := rfl

/-- Settles O9, by whether the count is the terminal one. -/
theorem latchStepHoldsThenSettles : Obligations.LatchStepHoldsThenSettles := by
  intro st s
  rw [exec_latchStep]
  exact ⟨fun h => by rw [waitFor_end _ h]; rfl, fun h => by rw [waitFor_tick _ h]; rfl,
    fun h => countUp_eq (by omega)⟩

/-- Settles O10, by whether the count is the terminal one. -/
theorem settleStepHoldsThenClocks : Obligations.SettleStepHoldsThenClocks := by
  intro st s
  rw [exec_settleStep]
  exact ⟨fun h => by rw [waitFor_end _ h]; rfl, fun h => by rw [waitFor_tick _ h]; rfl,
    fun h => countUp_eq (by omega)⟩

/-- R78, R105, R118: the raw sample after the last edge of a clock-low hold. -/
theorem getLsbD_raw_captureSample (s : State) (k : Nat) :
    (captureSample (sampledLevel s) s).raw.getLsbD k =
      if k = s.bidx.val then !(if TimingHolds s then dsamp s else Config.freeSample s.edge)
      else s.raw.getLsbD k := by
  rw [captureSample_raw, getLsbD_setBit, sampledLevel_eq]

/-- Settles O11: at the terminal count the sample is captured, before it the count goes on. -/
theorem clkloStepSamplesAtTheEndOfTheHold : Obligations.ClkloStepSamplesAtTheEndOfTheHold := by
  refine ⟨fun w h => (decodeSel_of_and_0x17 (p := .clklo) h).trans (decodeSel_selectorOf false (Sel.start w) _),
    fun st s ht => ?_, fun st s ht => ?_, fun s ht => countUp_eq (by omega)⟩
  · refine ⟨_, (exec_clkloStep st s).trans (congrArg _ (waitFor_end _ ht)), rfl, rfl, fun k _ => ?_⟩
    exact getLsbD_raw_captureSample s k
  · rw [exec_clkloStep, waitFor_tick _ ht]
    rfl

/-- R106: below the last position, `bidx + 1` does not wrap. -/
theorem val_bidx_add_one {i : Position} (h : i.val ≠ 16) : (i + 1).val = i.val + 1 :=
  Fin.val_add_one_of_lt (Fin.lt_last_iff_ne_last.mpr fun e => h (congrArg Fin.val e))

/-- Settles O12, by whether the count is the terminal one, and then by the position. -/
theorem clkhiStepMovesOnOrCompletes : Obligations.ClkhiStepMovesOnOrCompletes := by
  intro st s
  refine ⟨fun ht hb => ?_, fun ht hb => ?_, fun ht => ?_, fun ht => countUp_eq (by omega)⟩
  · have hlast : s.bidx = Config.lastPosition := Fin.ext hb
    rw [exec_clkhiStep, waitFor_end _ ht, if_pos hlast]
    exact ⟨_, rfl, rfl, rfl, rfl, decodeRaw_bit_zero s.raw⟩
  · have hlast : s.bidx ≠ Config.lastPosition := fun e => hb (congrArg Fin.val e)
    rw [exec_clkhiStep, waitFor_end _ ht, if_neg hlast]
    exact ⟨_, rfl, rfl, val_bidx_add_one hb, rfl⟩
  · rw [exec_clkhiStep, waitFor_tick _ ht]
    rfl

/-! The synchronizer (R107) and RESET (R100). -/

theorem exec_syncShift (s : State) : exec .syncShift s = .next (shiftSync s) := rfl

theorem exec_reset (st : Level) (ph : Phase) (s : State) : exec (.reset st ph) s = .next (resetRegisters s) := rfl

/-- R107: at every edge with `rst == 0` the chain shifts in the level of `data_i`, whatever the operation of the edge. -/
theorem sync_afterEdge_of_run {s : State} (hr : (hostPins s).rst = false) :
    (afterEdge s).sync = shiftIn (dataI s) s.sync := by
  have h := edgeCase_afterEdge s
  generalize afterEdge s = t at h ⊢
  cases h with
  | reset hrst => cases hr.symm.trans hrst
  | start | nop | latchHold | latchEnd | settleHold | settleEnd | clkloHold | clkloEnd | clkhiHold | clkhiNext
  | complete | recover => rfl

theorem mem_resetRegisters_sync {s : State} : ∀ b ∈ (resetRegisters s).sync, b = true :=
  fun _ hb => List.eq_of_mem_replicate hb

/-- Settles O13: the chain's shift entry by entry, then the two kinds of edge. -/
theorem syncShiftMovesTheChain : Obligations.SyncShiftMovesTheChain := by
  refine ⟨fun s => ⟨_, exec_syncShift s, rfl, length_shiftIn _ _, getElem?_shiftIn (dataI s) s.sync⟩,
    fun s t u hr ht hu => ?_, fun s u hr hu => ?_⟩
  · cases ht
    rw [← afterEdge_of_step hu, sync_afterEdge_of_run hr, shiftSync_sync]
  · rw [← afterEdge_of_step hu, afterEdge_reset hr]
    exact ⟨List.length_replicate, mem_resetRegisters_sync⟩

/-- With no button moving, the controller captures its buttons as they are. -/
theorem capturedButtons_of_still {c : Controller} (h : c.moving = 0) (n : Nat) : capturedButtons c n = c.buttons := by
  refine BitVec.eq_of_getLsbD_eq fun k hk => ?_
  rw [capturedButtons, BitVec.getLsbD_ofFnLE, dif_pos hk, h]
  exact if_neg (by simp)

/-- R116(a), R116(d): when the strobe falls the controller captures its buttons and presents the first of them. -/
theorem controllerNext_of_strobeFell (c : Controller) {before after : Lines} (h : Lines.strobeFell before after = true)
    (n : Nat) :
    controllerNext c before after n = { c with captured := capturedButtons c n, moving := 0, events := 1, age := 0 } :=
  if_pos h

/-- Settles O6: RESET is `resetRegisters`, closing its edge keeps every register, and a falling strobe captures. -/
theorem resetClearsEveryRegister : Obligations.ResetClearsEveryRegister := by
  refine ⟨fun w h => ⟨_, _, decodeSel_of_and_0x10 h⟩, fun st ph s => ?_, fun s t u hr ht hu => ?_,
    fun c before after n hfell hstill => ?_⟩
  · obtain ⟨hstrobe, hclock, hbusy⟩ := outputs_of_idle (resetRegisters_phase s)
    exact ⟨_, exec_reset st ph s, rfl, List.length_replicate, mem_resetRegisters_sync, hbusy, rfl,
      BitVec.getLsbD_zero, hstrobe, hclock⟩
  · cases ht
    rw [← afterEdge_of_step hu, afterEdge_reset hr]
    rfl
  · rw [controllerNext_of_strobeFell c hfell, capturedButtons_of_still hstill]
    exact ⟨rfl, rfl⟩

/-! The whole edge (R109). -/

theorem execSelected_of_decoded {s t : State} {i : Instr} (hi : decodeSel (selector s) = .ok i)
    (ht : exec i s = .next t) : execSelected s = .next t := by
  rw [execSelected, hi]
  exact ht

/-- Settles O26: the operation leaves the environment alone, so the parts of the edge after it read what the edge began
with. -/
theorem stepRunsTheDecodedOperation : Obligations.StepRunsTheDecodedOperation := by
  intro s t i hi ht
  have hsel := execSelected_of_decoded hi ht
  obtain ⟨-, hP, -, hhost, hpad, hedge⟩ := execSelected_frame hsel
  have hdata : dataI s = dataI t := by rw [dataI, dataI, hP, hpad, hedge]
  rw [step_of_selected hsel, hdata, ← hhost, ← hpad, ← hedge]
  cases (hostPins s).rst <;> rfl

theorem dsamp_eq_getD (s : State) :
    dsamp s = if s.sync.length = 0 then dataI s else s.sync.getD (s.sync.length - 1) (dataI s) := by
  by_cases h : s.sync = []
  · rw [dsamp_of_nil h, if_pos (List.length_eq_zero_iff.mpr h)]
  · rw [if_neg (mt List.length_eq_zero_iff.mp h), List.getD_eq_getElem?_getD, getElem?_last_of_sync_ne_nil h]
    rfl

theorem shiftIn_eq_ite (l : Level) (chain : List Level) :
    shiftIn l chain = if chain.length = 0 then [] else l :: chain.take (chain.length - 1) := by
  cases chain with
  | nil => rfl
  | cons b rest => simp [shiftIn]

/-- R118's draw as an input of the edge: the sample is the draw where there is one. -/
theorem sampledLevel_eq_getD (s : State) :
    sampledLevel s = (if TimingHolds s then none else some (Config.freeSample s.edge)).getD (dsamp s) := by
  rw [sampledLevel_eq]
  split <;> rfl

theorem setBit_not (v : RawSample) (i : Position) (b : Bool) :
    setBit v i (!b) = if b then v &&& ~~~(1#17 <<< i.val) else v ||| (1#17 <<< i.val) := by
  cases b <;> rfl

/-- Over the cases of one edge: each register's next value is the one that R109's step function writes. -/
theorem EdgeCase.registers_eq {s t : State} (h : EdgeCase s t) :
    registersOf t =
      registerStep s.T.cycles (registersOf s) (hostPins s).rst (hostPins s).start (dataI s)
        (if TimingHolds s then none else some (Config.freeSample s.edge)) := by
  cases h with
  | reset hr => simp [registerStep, registersOf, hr]
  | start hr hp hs | nop hr hp hs => simp [registerStep, registersOf, shiftIn_eq_ite, dataI, hr, hp, hs]
  | latchHold hr hp ht | settleHold hr hp ht | clkloHold hr hp ht | clkhiHold hr hp ht =>
    simp [registerStep, registersOf, shiftIn_eq_ite, dataI, countUp, hr, hp, ht]
  | latchEnd hr hp ht | settleEnd hr hp ht => simp [registerStep, registersOf, shiftIn_eq_ite, dataI, hr, hp, ht]
  | clkloEnd hr hp ht =>
    simp [registerStep, registersOf, shiftIn_eq_ite, dsamp_eq_getD, sampledLevel_eq_getD, setBit_not, dataI, hr, hp, ht]
  | clkhiNext hr hp ht hb | complete hr hp ht hb =>
    simp [registerStep, registersOf, shiftIn_eq_ite, dataI, hr, hp, ht, hb]
  | recover hr r hp => simp [registerStep, registersOf, recoverReserved, shiftIn_eq_ite, dataI, hr, hp]

/-- Settles O27, by the cases of one edge. -/
theorem stepRefinesTheOnePieceFunction : Obligations.StepRefinesTheOnePieceFunction :=
  fun s => ⟨_, step_eq_next s, afterEdge_T s, (edgeCase_afterEdge s).registers_eq⟩

end Sys2Proof.Machine
end

section
/-! SUPPORT and PROOFS. What every edge does to the registers that it may write (spec/10_state.md R35, R37), the recovery from a
reserved phase (R73), and the invariants of the reachable states (R44). -/

namespace Sys2Proof.Machine

/-! One edge, register by register. -/

/-- R73: no edge ends in a reserved phase. -/
theorem EdgeCase.isNamed {s t : State} (h : EdgeCase s t) : t.phase.isNamed = true := by
  cases h with
  | nop _ hp | latchHold _ hp | settleHold _ hp | clkloHold _ hp | clkhiHold _ hp => simp [hp, Phase.isNamed]
  | reset | start | latchEnd | settleEnd | clkloEnd | clkhiNext | complete | recover => rfl

/-- R37, R54, over the cases of one edge. -/
theorem EdgeCase.stateReg_eq {s t : State} (h : EdgeCase s t) :
    t.stateReg =
      if (hostPins s).rst = true then 0x0000
      else if s.phase = .clkhi ∧ s.tcnt = s.T.cycles - 1 ∧ s.bidx.val = 16 then decodeRaw s.raw
      else s.stateReg := by
  cases h with
  | reset hr => simp [hr]
  | complete hr hp ht hb => simp [hr, hp, ht, hb]
  | clkhiHold hr hp ht => simp [hr, ht]
  | clkhiNext hr hp ht hb => simp [hr, hb]
  | start hr hp | nop hr hp | latchHold hr hp | latchEnd hr hp | settleHold hr hp | settleEnd hr hp | clkloHold hr hp
  | clkloEnd hr hp => simp [hr, hp]
  | recover hr r hp => simp [hr, hp, recoverReserved]

/-- R35, R78, over the cases of one edge. -/
theorem EdgeCase.getLsbD_raw {s t : State} (h : EdgeCase s t) (k : Nat) :
    t.raw.getLsbD k =
      if (hostPins s).rst = true then false
      else if s.phase = .idle ∧ (hostPins s).start = true then false
      else if s.phase = .clklo ∧ s.tcnt = s.T.cycles - 1 ∧ k = s.bidx.val then
        !(if TimingHolds s then dsamp s else Config.freeSample s.edge)
      else s.raw.getLsbD k := by
  cases h with
  | reset hr => simp [hr]
  | start hr hp hs => simp [hr, hp, hs]
  | nop hr hp hs => simp [hr, hp, hs]
  | clkloHold hr hp ht => simp [hr, hp, ht]
  | clkloEnd hr hp ht =>
    rw [closeEdge_raw, enterPhase_raw, getLsbD_raw_captureSample]
    simp [hr, hp, ht]
  | latchHold hr hp | latchEnd hr hp | settleHold hr hp | settleEnd hr hp | clkhiHold hr hp | clkhiNext hr hp
  | complete hr hp => simp [hr, hp]
  | recover hr r hp => simp [hr, hp, recoverReserved]

theorem EdgeCase.netsSettled {s t : State} (h : EdgeCase s t) : NetsSettled t := by
  cases h <;> rfl

/-- Settles O35, by the cases of one edge. -/
theorem stateChangesOnlyAtCompletion : Obligations.StateChangesOnlyAtCompletion :=
  fun _ _ h => (edgeCase_of_step h).stateReg_eq

/-- Settles O36, by the cases of one edge. -/
theorem rawTakesOneBitAtATime : Obligations.RawTakesOneBitAtATime :=
  fun _ _ h k _ => (edgeCase_of_step h).getLsbD_raw k

/-- Settles O37: every edge settles the network, and gating last is DECODE. -/
theorem everyStepSettlesTheDecodeNetwork : Obligations.EveryStepSettlesTheDecodeNetwork := by
  intro s t h
  have hnets : t.nets = settledNets t.raw := (edgeCase_of_step h).netsSettled
  refine ⟨hnets, ?_⟩
  rw [hnets]
  exact (decodeRaw_eq_presenceGate t.raw).symm

/-- Settles O38: the three parameters are fields that no edge writes. -/
theorem buildParametersNeverChange : Obligations.BuildParametersNeverChange :=
  fun n s => ⟨afterEdges_T n s, afterEdges_S n s, afterEdges_P n s⟩

/-! The recovery from a reserved phase (R73). -/

/-- Settles O29: the decoder refuses the selector, the edge is the recovery, and every edge ends in a named phase. -/
theorem reservedPhaseRecoversToIdle : Obligations.ReservedPhaseRecoversToIdle := by
  refine ⟨fun s r hp hr => ?_, fun s t h => (edgeCase_of_step h).isNamed⟩
  have hsel : decodeSel (selector s) = .error r := by
    rw [selector_of_run hr hp]
    exact decodeSel_selectorOf false _ _
  have hstep : step s = .next (closeEdge s (recoverReserved s)) := by rw [step_eq_next, afterEdge_reserved hr hp]
  exact ⟨hsel, by simp [strobeO, hp], by simp [clockO, hp], _, hstep, rfl, rfl, rfl, rfl, rfl, rfl, rfl⟩

/-! The invariants (R44). -/

/-- R33: the terminal count of every phase lies below `2*T`. -/
theorem lastCount_lt (T : Delay) (p : Phase) : lastCount T.cycles p < 2 * T.cycles := by
  have hpos := T.pos
  cases p <;> simp only [lastCount] <;> omega

/-- R33: a count below the terminal one goes up by one and stays in range. -/
theorem tick_tcntInRange {s : State} (h : TcntInRange s) (ht : s.tcnt ≠ lastCount s.T.cycles s.phase) :
    countUp s.T.cycles s.tcnt = s.tcnt + 1 ∧ TcntInRange (tick s) := by
  have hlt : s.tcnt < lastCount s.T.cycles s.phase := Nat.lt_of_le_of_ne h ht
  have hcount : countUp s.T.cycles s.tcnt = s.tcnt + 1 :=
    countUp_eq (Nat.lt_of_le_of_lt hlt (lastCount_lt s.T s.phase))
  exact ⟨hcount, hcount.trans_le hlt⟩

/-- R44(c), over the cases of one edge. -/
theorem EdgeCase.tcntInRange {s t : State} (h : EdgeCase s t) (hs : TcntInRange s) : TcntInRange t := by
  cases h with
  | latchHold _ hp ht | settleHold _ hp ht | clkloHold _ hp ht | clkhiHold _ hp ht =>
    exact (tick_tcntInRange hs (by rw [hp]; exact ht)).2
  | nop => exact hs
  | reset | start | latchEnd | settleEnd | clkloEnd | clkhiNext | complete | recover => exact Nat.zero_le _

theorem legalLogical_zero : LegalLogical 0x0000 := by decide

/-- R148: `STATE` takes no value but 0, the value of DECODE and the one it had. -/
theorem EdgeCase.legalLogical {s t : State} (h : EdgeCase s t) (hs : LegalLogical s.stateReg) :
    LegalLogical t.stateReg := by
  rw [h.stateReg_eq]
  split
  · exact legalLogical_zero
  · split
    · exact legalLogical_decodeRaw s.raw
    · exact hs

/-- R38, R44: the edge that writes 1 to `DONE` ends in `IDLE`. -/
theorem EdgeCase.idle_of_done {s t : State} (h : EdgeCase s t) (hd : t.done = true) : t.phase = .idle := by
  cases h with
  | complete => rfl
  | reset | start | nop | latchHold | latchEnd | settleHold | settleEnd | clkloHold | clkloEnd | clkhiHold | clkhiNext
  | recover => cases hd

/-- Settles O40, invariant by invariant. -/
theorem everyStepKeepsTheInvariants : Obligations.EveryStepKeepsTheInvariants := by
  rintro s t ⟨-, hrange, hlegal, -⟩ h
  have hedge := edgeCase_of_step h
  exact ⟨hedge.isNamed, hedge.tcntInRange hrange, hedge.legalLogical hlegal, hedge.idle_of_done⟩

/-- Settles O39: in both states `phase`, `tcnt`, `STATE` and `DONE` hold R45's values. -/
theorem resetMeetsTheInvariants : Obligations.ResetMeetsTheInvariants := by
  refine ⟨fun p P => ⟨⟨rfl, Nat.le_refl 0, legalLogical_zero, nofun⟩, ?_⟩, fun s t hr h => ?_⟩
  · exact (by decide : (⟨0, 0, 0, 0, 0⟩ : Nets) = settledNets 0)
  · obtain rfl := Host.Outcome.next.inj ((step_reset hr).symm.trans h)
    exact ⟨⟨rfl, Nat.le_refl 0, legalLogical_zero, nofun⟩, rfl⟩

/-! The width of the counter and the build parameters. -/

/-- Settles O41: `WT` is one more than the logarithm of the largest count, rounded down. -/
theorem counterFitsItsWidth : Obligations.CounterFitsItsWidth := by
  refine ⟨fun T => ⟨Nat.le_add_left 1 _, two_mul_le_pow_tcntWidth T.cycles, ?_⟩, fun s hs => ?_⟩
  · have hpos := T.pos
    have hlog : 2 ^ Nat.log2 (2 * T.cycles - 1) ≤ 2 * T.cycles - 1 := Nat.log2_self_le (by omega)
    rw [Config.tcntWidth, Nat.add_sub_cancel]
    omega
  · obtain ⟨-, hrange, -, -⟩ := hs
    calc s.tcnt ≤ lastCount s.T.cycles s.phase := hrange
      _ < 2 * s.T.cycles := lastCount_lt s.T s.phase
      _ ≤ 2 ^ Config.tcntWidth s.T.cycles := two_mul_le_pow_tcntWidth s.T.cycles

/-- Settles O42, by the two tests of `build`. -/
theorem outOfRangeParametersDoNotBuild : Obligations.OutOfRangeParametersDoNotBuild := by
  intro p
  unfold RawParams.build
  by_cases hT : 1 ≤ p.delayCycles
  · by_cases hS : 0 ≤ p.syncStages
    · rw [dif_pos hT, if_pos hS]
      exact ⟨fun _ => ⟨_, rfl, Int.toNat_of_nonneg (by omega), Int.toNat_of_nonneg hS⟩,
        fun h => absurd ⟨hT, hS⟩ h⟩
    · rw [dif_pos hT, if_neg hS]
      exact ⟨fun h => absurd h.2 hS, fun _ => ⟨_, rfl⟩⟩
  · rw [dif_neg hT]
    exact ⟨fun h => absurd h.1 hT, fun _ => ⟨_, rfl⟩⟩

end Sys2Proof.Machine
end

section
/-! SUPPORT and PROOFS. The pace of a read in progress (spec/40_protocol_reader.md R112, R114): `edgesLeft` goes down by one at every
edge without reset, and the place of the read follows from the place before. -/

namespace Sys2Proof.Machine

/-! The pace: what the schedule needs of R44's invariants. -/

/-- R44 (a) and (c). -/
structure OnPace (s : State) : Prop where
  named : s.phase.isNamed = true
  inRange : TcntInRange s

theorem onPace_of_inv {s : State} (h : Inv s) : OnPace s :=
  let ⟨named, inRange, _, _⟩ := h
  ⟨named, inRange⟩

theorem OnPace.next {s : State} (h : OnPace s) : OnPace (afterEdge s) :=
  ⟨(edgeCase_afterEdge s).isNamed, (edgeCase_afterEdge s).tcntInRange h.inRange⟩

theorem edgesLeft_of_idle {s : State} (hp : s.phase = .idle) : edgesLeft s = 0 := by
  rw [edgesLeft, hp]

/-- R112: a read on pace has an edge left exactly as long as it is in progress. -/
theorem OnPace.edgesLeft_eq_zero_iff {s : State} (h : OnPace s) : edgesLeft s = 0 ↔ s.phase = .idle := by
  refine ⟨fun h0 => ?_, edgesLeft_of_idle⟩
  obtain ⟨hnamed, hrange⟩ := h
  have hpos := s.T.pos
  cases hp : s.phase with
  | idle => rfl
  | latch | settle | clklo | clkhi =>
    simp only [edgesLeft, TcntInRange, lastCount, hp] at h0 hrange
    omega
  | reserved r => simp [hp, Phase.isNamed] at hnamed

/-- R112, over the cases of one edge. -/
theorem OnPace.edgesLeft_next {s : State} (h : OnPace s) (hbusy : s.phase ≠ .idle) (hr : (hostPins s).rst = false) :
    edgesLeft (afterEdge s) + 1 = edgesLeft s := by
  obtain ⟨hnamed, hrange⟩ := h
  have hpos := s.T.pos
  have hb := s.bidx.isLt
  have hedge := edgeCase_afterEdge s
  generalize afterEdge s = t at hedge
  cases hedge with
  | reset hrst => cases hr.symm.trans hrst
  | start _ hp | nop _ hp => exact absurd hp hbusy
  | recover _ r hp => simp [hp, Phase.isNamed] at hnamed
  | latchHold _ hp ht | settleHold _ hp ht | clkloHold _ hp ht | clkhiHold _ hp ht =>
    have hcount := (tick_tcntInRange hrange (by rw [hp]; exact ht)).1
    simp only [TcntInRange, lastCount, hp] at hrange
    simp only [edgesLeft, closeEdge_phase, tick_phase, hp, closeEdge_T, tick_T, closeEdge_tcnt, tick_tcnt, hcount,
      closeEdge_bidx, tick_bidx]
    omega
  | latchEnd _ hp ht | clkloEnd _ hp ht =>
    simp only [edgesLeft, closeEdge_phase, enterPhase_phase, hp, closeEdge_T, enterPhase_T, captureSample_T,
      closeEdge_tcnt, enterPhase_tcnt, ht, closeEdge_bidx, enterPhase_bidx, captureSample_bidx]
    omega
  | settleEnd _ hp ht =>
    have hmul : (17 - s.bidx.val) * (2 * s.T.cycles) = (16 - s.bidx.val) * (2 * s.T.cycles) + 2 * s.T.cycles := by
      rw [← Nat.succ_mul]; congr 1; omega
    simp only [edgesLeft, closeEdge_phase, enterPhase_phase, hp, closeEdge_T, enterPhase_T,
      closeEdge_tcnt, enterPhase_tcnt, ht, closeEdge_bidx, enterPhase_bidx]
    omega
  | clkhiNext _ hp ht hlast =>
    have hmul : (16 - s.bidx.val) * (2 * s.T.cycles) =
        (16 - (s.bidx.val + 1)) * (2 * s.T.cycles) + 2 * s.T.cycles := by
      rw [← Nat.succ_mul]; congr 1; omega
    simp only [edgesLeft, closeEdge_phase, enterPhase_phase, hp, closeEdge_T, enterPhase_T, nextPosition_T,
      closeEdge_tcnt, enterPhase_tcnt, ht, closeEdge_bidx, enterPhase_bidx, nextPosition_bidx, val_bidx_add_one hlast]
    omega
  | complete _ hp ht hlast =>
    simp only [edgesLeft, closeEdge_phase, completeRead_phase, hp, ht, hlast]
    omega

/-- R106, R174: without reset, a read in progress ends at the completing edge and at no other. -/
theorem OnPace.completes_of_idle {s : State} (h : OnPace s) (hbusy : s.phase ≠ .idle) (hr : (hostPins s).rst = false)
    (hidle : (afterEdge s).phase = .idle) : s.phase = .clkhi ∧ s.tcnt = s.T.cycles - 1 ∧ s.bidx.val = 16 := by
  obtain ⟨hnamed, -⟩ := h
  have hedge := edgeCase_afterEdge s
  generalize afterEdge s = t at hedge hidle
  cases hedge with
  | complete _ hp ht hb => exact ⟨hp, ht, hb⟩
  | reset hrst => cases hr.symm.trans hrst
  | start _ hp | nop _ hp => exact absurd hp hbusy
  | latchHold | settleHold | clkloHold | clkhiHold => exact absurd hidle hbusy
  | latchEnd | settleEnd | clkloEnd | clkhiNext => cases hidle
  | recover _ r hp => simp [hp, Phase.isNamed] at hnamed

/-- R106, R178: the edge that ends a read writes 1 to `DONE`. -/
theorem OnPace.done_of_idle {s : State} (h : OnPace s) (hbusy : s.phase ≠ .idle) (hr : (hostPins s).rst = false)
    (hidle : (afterEdge s).phase = .idle) : (afterEdge s).done = true :=
  (edgeCase_afterEdge s).done_eq_true_iff.mpr ⟨hr, h.completes_of_idle hbusy hr hidle⟩

theorem phase_ne_idle_of_busy {s : State} (h : busyO s = true) : s.phase ≠ .idle := fun hp => by
  cases h.symm.trans ((busyO_eq_false_iff s).mpr hp)

/-- Settles O43: the read is one edge nearer to its end, and the end is the completing edge. -/
theorem everyEdgeBringsAReadNearerToItsEnd : Obligations.EveryEdgeBringsAReadNearerToItsEnd := by
  intro s t hinv hbusyO hr ht
  obtain rfl := afterEdge_of_step ht
  have hpace := onPace_of_inv hinv
  have hbusy := phase_ne_idle_of_busy hbusyO
  refine ⟨hpace.edgesLeft_next hbusy hr, ?_⟩
  rw [hpace.next.edgesLeft_eq_zero_iff]
  exact ⟨fun hidle => ⟨hpace.done_of_idle hbusy hr hidle, hidle⟩, And.right⟩

/-! A read in progress over several edges. -/

/-- R112: after `n` edges without reset, within the read, `n` edges fewer are left. -/
theorem OnPace.run {s : State} (h : OnPace s) (n : Nat) (hn : n ≤ edgesLeft s) (hr : NoResetWithin n s) :
    OnPace (afterEdges n s) ∧ edgesLeft (afterEdges n s) + n = edgesLeft s := by
  induction n with
  | zero => exact ⟨h, rfl⟩
  | succ n ih =>
    obtain ⟨hpace, hleft⟩ := ih (by omega) fun e he => hr e (by omega)
    have hbusy : (afterEdges n s).phase ≠ .idle := mt hpace.edgesLeft_eq_zero_iff.mpr (by omega)
    have hnext := hpace.edgesLeft_next hbusy (by rw [hostPins_afterEdges]; exact hr n n.lt_succ_self)
    rw [afterEdges_last]
    exact ⟨hpace.next, by omega⟩

/-- R112, R178: a read in progress that is left alone completes after `edgesLeft` edges. -/
theorem OnPace.completes {s : State} (h : OnPace s) (hbusy : s.phase ≠ .idle) (hr : NoResetWithin (edgesLeft s) s) :
    (afterEdges (edgesLeft s) s).phase = .idle ∧ (afterEdges (edgesLeft s) s).done = true := by
  obtain ⟨m, hm⟩ := Nat.exists_eq_add_one.mpr (Nat.pos_of_ne_zero (mt h.edgesLeft_eq_zero_iff.mp hbusy))
  obtain ⟨hend, hleft⟩ := h.run (edgesLeft s) le_rfl hr
  obtain ⟨hpace, hone⟩ := h.run m (by omega) fun e he => hr e (by omega)
  have hidle : (afterEdges (edgesLeft s) s).phase = .idle := hend.edgesLeft_eq_zero_iff.mp (by omega)
  refine ⟨hidle, ?_⟩
  rw [hm, afterEdges_last] at hidle ⊢
  refine hpace.done_of_idle (mt hpace.edgesLeft_eq_zero_iff.mpr (by omega)) ?_ hidle
  rw [hostPins_afterEdges]
  exact hr m (by omega)

/-- R112: no read takes more than `37*T` edges. -/
theorem edgesLeft_le (s : State) : edgesLeft s ≤ 37 * s.T.cycles := by
  have h17 : (17 - s.bidx.val) * (2 * s.T.cycles) ≤ 17 * (2 * s.T.cycles) := Nat.mul_le_mul_right _ (Nat.sub_le _ _)
  have h16 : (16 - s.bidx.val) * (2 * s.T.cycles) ≤ 16 * (2 * s.T.cycles) := Nat.mul_le_mul_right _ (Nat.sub_le _ _)
  cases hp : s.phase <;> simp only [edgesLeft, hp] <;> omega

/-- The pins that the host queues are the pins of the coming edges. -/
theorem hostAt_queuePins {pins : List HostPins} {e : Nat} (he : e < pins.length) (s : State) :
    hostAt (queuePins pins s) e = pins[e] := by
  rw [hostAt, queuePins_hostIn, List.getElem?_eq_getElem he]

theorem runLine_waitDone (s : State) :
    runLine .waitDone s =
      some (afterEdges (edgesLeft s)
        (queuePins (List.replicate (edgesLeft s) { rst := false, start := false }) s)) := by
  rw [runLine, linePins, List.length_replicate]

/-- Settles O55: `WAIT_DONE` queues as many idle pins as the read has edges left. -/
theorem waitDoneReachesTheCompletion : Obligations.WaitDoneReachesTheCompletion := by
  intro s hinv hbusyO
  let q := queuePins (List.replicate (edgesLeft s) { rst := false, start := false }) s
  have hpace : OnPace q := ⟨(onPace_of_inv hinv).named, (onPace_of_inv hinv).inRange⟩
  have hnoReset : NoResetWithin (edgesLeft q) q := fun e he => by
    rw [hostAt_queuePins (by rw [List.length_replicate]; exact he), List.getElem_replicate]
  obtain ⟨hidle, hdone⟩ := hpace.completes (phase_ne_idle_of_busy hbusyO) hnoReset
  exact ⟨_, runLine_waitDone s, hdone, (busyO_eq_false_iff _).mpr hidle, edgesLeft_le s⟩

/-! The place of a read does not depend on the other registers and inputs (R114). -/

/-- Two states of one build at the same place of the protocol sequence. -/
structure SamePlace (s s' : State) : Prop where
  T : s.T = s'.T
  phase : s.phase = s'.phase
  tcnt : s.tcnt = s'.tcnt
  bidx : s.bidx = s'.bidx

theorem samePlace_closeEdge {s s' t t' : State} (h : SamePlace t t') :
    SamePlace (closeEdge s t) (closeEdge s' t') :=
  ⟨h.T, h.phase, h.tcnt, h.bidx⟩

theorem samePlace_enterPhase {s s' : State} (h : SamePlace s s') (p : Phase) :
    SamePlace (enterPhase p s) (enterPhase p s') :=
  ⟨h.T, rfl, rfl, h.bidx⟩

theorem samePlace_captureSample {s s' : State} (h : SamePlace s s') (b b' : Level) :
    SamePlace (captureSample b s) (captureSample b' s') :=
  ⟨h.T, h.phase, h.tcnt, h.bidx⟩

theorem samePlace_nextPosition {s s' : State} (h : SamePlace s s') : SamePlace (nextPosition s) (nextPosition s') :=
  ⟨h.T, h.phase, h.tcnt, congrArg (· + 1) h.bidx⟩

/-- The wait for the end of a phase reads `tcnt` alone. -/
theorem samePlace_waitFor {s s' t t' : State} (h : SamePlace s s') (hend : SamePlace t t') (len : Nat) :
    SamePlace (waitFor len s t) (waitFor len s' t') := by
  by_cases ht : s.tcnt = len - 1
  · rw [waitFor_end _ ht, waitFor_end _ (h.tcnt.symm.trans ht)]
    exact hend
  · rw [waitFor_tick _ ht, waitFor_tick _ fun e => ht (h.tcnt.trans e)]
    exact ⟨h.T, h.phase, by rw [tick_tcnt, tick_tcnt, h.T, h.tcnt], h.bidx⟩

/-- R114: the place after an edge follows from the place before it, from `rst`, and in `IDLE` from `start_i`. -/
theorem SamePlace.next {s s' : State} (h : SamePlace s s') (hr : (hostPins s).rst = (hostPins s').rst)
    (hs : s.phase = .idle → (hostPins s).start = (hostPins s').start) : SamePlace (afterEdge s) (afterEdge s') := by
  cases hrst : (hostPins s).rst with
  | true =>
    rw [afterEdge_reset hrst, afterEdge_reset (hr.symm.trans hrst)]
    exact ⟨h.T, rfl, rfl, rfl⟩
  | false =>
    have hrst' := hr.symm.trans hrst
    cases hp : s.phase with
    | idle =>
      rw [afterEdge_idle hrst hp, afterEdge_idle hrst' (h.phase.symm.trans hp), ← hs hp]
      cases (hostPins s).start
      · exact samePlace_closeEdge ⟨h.T, h.phase, h.tcnt, h.bidx⟩
      · exact samePlace_closeEdge ⟨h.T, rfl, rfl, rfl⟩
    | latch =>
      rw [afterEdge_latch hrst hp, afterEdge_latch hrst' (h.phase.symm.trans hp), ← h.T]
      exact samePlace_closeEdge (samePlace_waitFor h (samePlace_enterPhase h _) _)
    | settle =>
      rw [afterEdge_settle hrst hp, afterEdge_settle hrst' (h.phase.symm.trans hp), ← h.T]
      exact samePlace_closeEdge (samePlace_waitFor h (samePlace_enterPhase h _) _)
    | clklo =>
      rw [afterEdge_clklo hrst hp, afterEdge_clklo hrst' (h.phase.symm.trans hp), ← h.T]
      exact samePlace_closeEdge (samePlace_waitFor h (samePlace_enterPhase (samePlace_captureSample h _ _) _) _)
    | clkhi =>
      rw [afterEdge_clkhi hrst hp, afterEdge_clkhi hrst' (h.phase.symm.trans hp), ← h.T, ← h.bidx]
      refine samePlace_closeEdge (samePlace_waitFor h ?_ _)
      by_cases hb : s.bidx = Config.lastPosition
      · rw [if_pos hb, if_pos hb]
        exact ⟨h.T, rfl, rfl, h.bidx⟩
      · rw [if_neg hb, if_neg hb]
        exact samePlace_enterPhase (samePlace_nextPosition h) _
    | reserved r =>
      rw [afterEdge_reserved hrst hp, afterEdge_reserved hrst' (h.phase.symm.trans hp)]
      exact samePlace_closeEdge (samePlace_enterPhase h _)

/-- R114: no request and no data line moves a read in progress off its place. -/
theorem SamePlace.run {s s' : State} (h : SamePlace s s') (hpace : OnPace s) (n : Nat) (hn : n ≤ edgesLeft s)
    (hr : NoResetWithin n s) (hr' : NoResetWithin n s') :
    SamePlace (afterEdges n s) (afterEdges n s') := by
  induction n with
  | zero => exact h
  | succ n ih =>
    have hlt : ∀ e, e < n → e < n + 1 := fun _ he => he.trans n.lt_succ_self
    obtain ⟨hpace', hleft⟩ := hpace.run n (by omega) fun e he => hr e (hlt e he)
    have hbusy : (afterEdges n s).phase ≠ .idle := mt hpace'.edgesLeft_eq_zero_iff.mpr (by omega)
    rw [afterEdges_last, afterEdges_last]
    refine (ih (by omega) (fun e he => hr e (hlt e he)) fun e he => hr' e (hlt e he)).next ?_ (absurd · hbusy)
    rw [hostPins_afterEdges, hostPins_afterEdges, hr n n.lt_succ_self, hr' n n.lt_succ_self]

/-- Settles O52, by induction on the edges; the lines follow from the phase. -/
theorem sequenceOfAReadIsNotInterruptible : Obligations.SequenceOfAReadIsNotInterruptible := by
  intro s s' hinv _ hT hp ht hb n hn hr hr'
  have hplace : SamePlace s s' := ⟨hT, hp, ht, hb⟩
  obtain ⟨-, hphase, htcnt, hbidx⟩ := hplace.run (onPace_of_inv hinv) n hn hr hr'
  exact ⟨hphase, htcnt, hbidx, strobeO_congr hphase, clockO_congr hphase⟩

end Sys2Proof.Machine
end

section
/-! SUPPORT and PROOFS. The schedule of a read (spec/40_protocol_reader.md R112, R113): in cycle `c` a read has `37*T - c` edges left,
which fixes its place; its line events; its completion; and reads back to back (R204). -/

namespace Sys2Proof.Machine

/-! Cycle `c` of a read. -/

/-- `u` is the state in cycle `c` of a read that READ_START began (R102, R112): `bidx` is 0 until the first clock-low phase and
16 at the end. -/
structure ReadAt (c : Nat) (u : State) : Prop where
  pace : OnPace u
  left : edgesLeft u + c = 37 * u.T.cycles
  bidx_first : u.phase = .latch ∨ u.phase = .settle → u.bidx.val = 0
  bidx_last : u.phase = .idle → u.bidx.val = 16

theorem afterEdge_of_accepts {s : State} (h : AcceptsRead s) : afterEdge s = closeEdge s (beginRead s) := by
  obtain ⟨hp, hr, hs⟩ := h
  rw [← hostPins_eq_hostAt_zero] at hr hs
  rw [afterEdge_idle hr hp, hs, if_pos rfl]

theorem readAt_zero {s : State} (h : AcceptsRead s) : ReadAt 0 (afterEdge s) := by
  rw [afterEdge_of_accepts h]
  refine ⟨⟨rfl, Nat.zero_le _⟩, ?_, fun _ => rfl, nofun⟩
  simp only [edgesLeft, closeEdge_phase, beginRead_phase, closeEdge_T, beginRead_T, closeEdge_tcnt, beginRead_tcnt,
    closeEdge_bidx, beginRead_bidx, Fin.val_zero]
  omega

theorem ReadAt.busy {c : Nat} {u : State} (h : ReadAt c u) (hc : c < 37 * u.T.cycles) : u.phase ≠ .idle := by
  have hleft := h.left
  exact mt h.pace.edgesLeft_eq_zero_iff.mpr (by omega)

theorem ReadAt.idle {u : State} (h : ReadAt (37 * u.T.cycles) u) : u.phase = .idle := by
  have hleft := h.left
  exact h.pace.edgesLeft_eq_zero_iff.mp (by omega)

/-- Before the first clock-low phase `bidx` keeps the 0 that READ_START wrote. -/
theorem EdgeCase.bidx_of_first {s t : State} (h : EdgeCase s t)
    (hs : s.phase = .latch ∨ s.phase = .settle → s.bidx.val = 0) :
    t.phase = .latch ∨ t.phase = .settle → t.bidx.val = 0 := by
  cases h with
  | start => exact fun _ => rfl
  | nop | latchHold | settleHold | clkloHold | clkhiHold => exact hs
  | latchEnd _ hp => exact fun _ => hs (.inl hp)
  | reset | settleEnd | clkloEnd | clkhiNext | complete | recover => rintro (hp | hp) <;> cases hp

theorem ReadAt.next {c : Nat} {u : State} (h : ReadAt c u) (hc : c < 37 * u.T.cycles)
    (hr : (hostPins u).rst = false) : ReadAt (c + 1) (afterEdge u) := by
  have hbusy := h.busy hc
  have hleft := h.left
  have hdown := h.pace.edgesLeft_next hbusy hr
  refine ⟨h.pace.next, by rw [afterEdge_T]; omega, (edgeCase_afterEdge u).bidx_of_first h.bidx_first, fun hidle => ?_⟩
  obtain ⟨hp, ht, hb⟩ := h.pace.completes_of_idle hbusy hr hidle
  rw [afterEdge_complete hr hp ht hb]
  exact hb

/-- A read that no reset cuts: R14's numbering, cycle `c` is the state after edge `c`. -/
theorem readAt_afterEdges {s : State} (h : AcceptsRead s) (hr : NoResetWithin (37 * s.T.cycles + 1) s) {c : Nat}
    (hc : c ≤ 37 * s.T.cycles) : ReadAt c (afterEdges (c + 1) s) := by
  induction c with
  | zero => exact readAt_zero h
  | succ c ih =>
    rw [afterEdges_last]
    refine (ih (by omega)).next (by rw [afterEdges_T]; omega) ?_
    rw [hostPins_afterEdges]
    exact hr (c + 1) (by omega)

/-! The place in cycle `c`, in whole hold times. -/

/-- How many hold times of `T` cycles lie before the phase `p` at position `i` of a read (R112). -/
def holdsBefore (p : Phase) (i : Nat) : Nat :=
  match p with
  | .idle => 37
  | .latch => 0
  | .settle => 2
  | .clklo => 3 + 2 * i
  | .clkhi => 4 + 2 * i
  | .reserved _ => 0

/-- R112: the cycle is the hold times before the phase and the count in it. -/
theorem ReadAt.cycle_eq {c : Nat} {u : State} (h : ReadAt c u) :
    c = holdsBefore u.phase u.bidx.val * u.T.cycles + u.tcnt := by
  obtain ⟨⟨hnamed, hrange⟩, hleft, hfirst, -⟩ := h
  have hb := u.bidx.isLt
  have hmul : (16 - u.bidx.val) * (2 * u.T.cycles) + u.bidx.val * (2 * u.T.cycles) = 16 * (2 * u.T.cycles) := by
    rw [← Nat.add_mul]; congr 1; omega
  have hodd : (3 + 2 * u.bidx.val) * u.T.cycles = 3 * u.T.cycles + u.bidx.val * (2 * u.T.cycles) := by ring
  have heven : (4 + 2 * u.bidx.val) * u.T.cycles = 4 * u.T.cycles + u.bidx.val * (2 * u.T.cycles) := by ring
  cases hp : u.phase with
  | idle | clklo | clkhi =>
    simp only [edgesLeft, TcntInRange, lastCount, hp] at hleft hrange
    simp only [holdsBefore]
    omega
  | latch | settle =>
    have hzero : u.bidx.val = 0 := hfirst (by simp [hp])
    simp only [edgesLeft, TcntInRange, lastCount, hp, hzero] at hleft hrange
    simp only [holdsBefore]
    omega
  | reserved r => simp [hp, Phase.isNamed] at hnamed

/-- R112: every phase but `LATCH` takes one hold time. -/
theorem lastCount_lt_of_ne_latch (T : Delay) {p : Phase} (hp : p ≠ .latch) : lastCount T.cycles p < T.cycles := by
  have hpos := T.pos
  cases p with
  | latch => exact absurd rfl hp
  | idle | settle | clklo | clkhi | reserved => simp only [lastCount]; omega

theorem ReadAt.div_eq {c : Nat} {u : State} (h : ReadAt c u) (hp : u.phase ≠ .latch) :
    c / u.T.cycles = holdsBefore u.phase u.bidx.val := by
  have hlt : u.tcnt < u.T.cycles := Nat.lt_of_le_of_lt h.pace.inRange (lastCount_lt_of_ne_latch u.T hp)
  rw [h.cycle_eq, Nat.mul_comm, Nat.mul_add_div u.T.pos, Nat.div_eq_of_lt hlt, Nat.add_zero]

theorem two_le_holdsBefore {p : Phase} (hnamed : p.isNamed = true) (hp : p ≠ .latch) (i : Nat) :
    2 ≤ holdsBefore p i := by
  cases p with
  | latch => exact absurd rfl hp
  | reserved r => cases hnamed
  | idle | settle | clklo | clkhi => simp only [holdsBefore]; omega

theorem ReadAt.latch_iff {c : Nat} {u : State} (h : ReadAt c u) : u.phase = .latch ↔ c < 2 * u.T.cycles := by
  constructor
  · intro hp
    have hlt : u.tcnt < 2 * u.T.cycles := Nat.lt_of_le_of_lt h.pace.inRange (lastCount_lt u.T u.phase)
    rwa [h.cycle_eq, hp, holdsBefore, Nat.zero_mul, Nat.zero_add]
  · intro hc
    by_contra hp
    have hq : c / u.T.cycles < 2 := Nat.div_lt_of_lt_mul (by rwa [Nat.mul_comm])
    have hholds := two_le_holdsBefore h.pace.named hp u.bidx.val
    rw [h.div_eq hp] at hq
    omega

/-- From the second hold time on, a cycle in hold time `m` is in the phase that begins there. -/
theorem ReadAt.of_hold {c m : Nat} {u : State} (h : ReadAt c u) (hm : 2 ≤ m) (hlo : m * u.T.cycles ≤ c)
    (hhi : c < (m + 1) * u.T.cycles) : holdsBefore u.phase u.bidx.val = m ∧ u.tcnt = c - m * u.T.cycles := by
  have hp : u.phase ≠ .latch := mt h.latch_iff.mp (Nat.not_lt.mpr ((Nat.mul_le_mul_right _ hm).trans hlo))
  have hholds : holdsBefore u.phase u.bidx.val = m := (h.div_eq hp).symm.trans (Nat.div_eq_of_lt_le hlo hhi)
  have hcycle := h.cycle_eq
  rw [hholds] at hcycle
  exact ⟨hholds, by omega⟩

theorem settle_of_holdsBefore {p : Phase} {j : Nat} (h : holdsBefore p j = 2) : p = .settle := by
  cases p with
  | settle => rfl
  | idle | latch | clklo | clkhi | reserved => simp only [holdsBefore] at h; omega

theorem clklo_of_holdsBefore {p : Phase} {i j : Nat} (hi : i < 17) (h : holdsBefore p j = 3 + 2 * i) :
    p = .clklo ∧ j = i := by
  cases p with
  | clklo => exact ⟨rfl, by simp only [holdsBefore] at h; omega⟩
  | idle | latch | settle | clkhi | reserved => simp only [holdsBefore] at h; omega

theorem clkhi_of_holdsBefore {p : Phase} {i j : Nat} (h : holdsBefore p j = 4 + 2 * i) : p = .clkhi ∧ j = i := by
  cases p with
  | clkhi => exact ⟨rfl, by simp only [holdsBefore] at h; omega⟩
  | idle | latch | settle | clklo | reserved => simp only [holdsBefore] at h; omega

/-! The schedule (R112): the place in each range of cycles. -/

section Ranges

variable {c i : Nat} {u : State} (h : ReadAt c u)

include h

theorem ReadAt.place_latch (hc : c < 2 * u.T.cycles) : u.phase = .latch ∧ u.tcnt = c ∧ u.bidx.val = 0 := by
  have hp := h.latch_iff.mpr hc
  have hcycle := h.cycle_eq
  rw [hp, holdsBefore] at hcycle
  exact ⟨hp, by omega, h.bidx_first (.inl hp)⟩

theorem ReadAt.place_settle (hlo : 2 * u.T.cycles ≤ c) (hhi : c < 3 * u.T.cycles) :
    u.phase = .settle ∧ u.tcnt = c - 2 * u.T.cycles ∧ u.bidx.val = 0 := by
  obtain ⟨hholds, htcnt⟩ := h.of_hold le_rfl hlo hhi
  have hp := settle_of_holdsBefore hholds
  exact ⟨hp, htcnt, h.bidx_first (.inr hp)⟩

theorem ReadAt.place_clklo (hi : i < 17) (hlo : (3 + 2 * i) * u.T.cycles ≤ c) (hhi : c < (4 + 2 * i) * u.T.cycles) :
    u.phase = .clklo ∧ u.tcnt = c - (3 + 2 * i) * u.T.cycles ∧ u.bidx.val = i := by
  obtain ⟨hholds, htcnt⟩ := h.of_hold (by omega) hlo (by rwa [show 3 + 2 * i + 1 = 4 + 2 * i by omega])
  obtain ⟨hp, hb⟩ := clklo_of_holdsBefore hi hholds
  exact ⟨hp, htcnt, hb⟩

theorem ReadAt.place_clkhi (hlo : (4 + 2 * i) * u.T.cycles ≤ c) (hhi : c < (5 + 2 * i) * u.T.cycles) :
    u.phase = .clkhi ∧ u.tcnt = c - (4 + 2 * i) * u.T.cycles ∧ u.bidx.val = i := by
  obtain ⟨hholds, htcnt⟩ := h.of_hold (by omega) hlo (by rwa [show 4 + 2 * i + 1 = 5 + 2 * i by omega])
  obtain ⟨hp, hb⟩ := clkhi_of_holdsBefore hholds
  exact ⟨hp, htcnt, hb⟩

theorem ReadAt.place_idle (hc : c = 37 * u.T.cycles) : u.phase = .idle ∧ u.tcnt = 0 ∧ u.bidx.val = 16 := by
  subst hc
  have hp := h.idle
  have hrange := h.pace.inRange
  rw [TcntInRange, hp] at hrange
  exact ⟨hp, Nat.le_zero.mp hrange, h.bidx_last hp⟩

end Ranges

/-- R22, R23, R26: the lines and `busy_o` in a given phase. -/
theorem outputs_of_phase {s : State} {p : Phase} (h : s.phase = p) :
    strobeO s = decide (p = .latch) ∧ clockO s = !decide (p = .clklo) ∧ busyO s = !decide (p = .idle) := by
  subst h
  simp [strobeO, clockO, busyO]

/-- Settles O44: the place in the range of the cycle, and the lines of its phase. -/
theorem readFollowsTheSchedule : Obligations.ReadFollowsTheSchedule := by
  intro s hs hr c hc T u
  have h : ReadAt c u := readAt_afterEdges hs hr hc
  have hT : u.T.cycles = T := congrArg Delay.cycles (afterEdges_T (c + 1) s)
  clear_value u T
  subst hT
  have outputs {p : Phase} {t i : Nat} (hplace : u.phase = p ∧ u.tcnt = t ∧ u.bidx.val = i) :
      u.phase = p ∧ u.tcnt = t ∧ u.bidx.val = i ∧
        strobeO u = decide (p = .latch) ∧ clockO u = !decide (p = .clklo) ∧ busyO u = !decide (p = .idle) :=
    let ⟨hp, ht, hb⟩ := hplace
    ⟨hp, ht, hb, outputs_of_phase hp⟩
  exact ⟨fun hlt => outputs (h.place_latch hlt), fun hlo hhi => outputs (h.place_settle hlo hhi),
    fun i hi hlo hhi => outputs (h.place_clklo hi hlo hhi), fun i _ hlo hhi => outputs (h.place_clkhi hlo hhi),
    fun hend => outputs (h.place_idle hend)⟩

/-! The line events (R55, R58, R113). -/

theorem strobeRose_iff (s t : State) :
    Lines.strobeRose (linesOf s) (linesOf t) = true ↔ s.phase ≠ .latch ∧ t.phase = .latch := by
  simp [Lines.strobeRose, linesOf, ← strobeO_eq_true_iff]

theorem strobeFell_iff (s t : State) :
    Lines.strobeFell (linesOf s) (linesOf t) = true ↔ s.phase = .latch ∧ t.phase ≠ .latch := by
  simp [Lines.strobeFell, linesOf, ← strobeO_eq_true_iff]

theorem clockRose_iff (s t : State) :
    Lines.clockRose (linesOf s) (linesOf t) = true ↔ s.phase = .clklo ∧ t.phase ≠ .clklo := by
  simp [Lines.clockRose, linesOf, ← clockO_eq_false_iff]

theorem clockFell_iff (s t : State) :
    ((linesOf s).clock = true ∧ (linesOf t).clock = false) ↔ s.phase ≠ .clklo ∧ t.phase = .clklo := by
  simp [linesOf, ← clockO_eq_false_iff]

/-- The clock is low in every other hold time, from the fourth one on. -/
theorem ReadAt.clklo_iff {c : Nat} {u : State} (h : ReadAt c u) :
    u.phase = .clklo ↔ ∃ i, i < 17 ∧ c / u.T.cycles = 3 + 2 * i := by
  constructor
  · intro hp
    have hq := h.div_eq (by rw [hp]; decide)
    rw [hp] at hq
    exact ⟨u.bidx.val, u.bidx.isLt, hq⟩
  · rintro ⟨i, hi, hq⟩
    have hp : u.phase ≠ .latch := fun hp => by
      have hlt : c / u.T.cycles < 2 := Nat.div_lt_of_lt_mul (by rw [Nat.mul_comm]; exact h.latch_iff.mp hp)
      omega
    exact (clklo_of_holdsBefore hi ((h.div_eq hp).symm.trans hq)).1

/-- The next cycle begins a hold time or lies in the present one. -/
theorem succ_div_cases (c T : Nat) :
    (c + 1 = (c / T + 1) * T ∧ (c + 1) / T = c / T + 1) ∨ ((∀ m, c + 1 ≠ m * T) ∧ (c + 1) / T = c / T) := by
  by_cases hdvd : T ∣ c + 1
  · have hq : (c + 1) / T = c / T + 1 := Nat.succ_div_of_dvd hdvd
    exact .inl ⟨by rw [← hq, Nat.div_mul_cancel hdvd], hq⟩
  · exact .inr ⟨fun m hm => hdvd ⟨m, by rw [hm, Nat.mul_comm]⟩, Nat.succ_div_of_not_dvd hdvd⟩

section Events

variable {c : Nat} {u v : State} (hu : ReadAt c u) (hv : ReadAt (c + 1) v) (hT : v.T = u.T)

include hu hv hT

theorem ReadAt.clock_falls_iff :
    (u.phase ≠ .clklo ∧ v.phase = .clklo) ↔ ∃ i, i < 17 ∧ c + 1 = (3 + 2 * i) * u.T.cycles := by
  rw [Ne, hu.clklo_iff, hv.clklo_iff, hT]
  rcases succ_div_cases c u.T.cycles with ⟨hc, hq⟩ | ⟨hne, hq⟩
  · rw [hq, hc]
    constructor
    · rintro ⟨-, i, hi, e⟩
      exact ⟨i, hi, congrArg (· * u.T.cycles) e⟩
    · rintro ⟨i, hi, e⟩
      have e' := Nat.eq_of_mul_eq_mul_right u.T.pos e
      exact ⟨by rintro ⟨j, -, e⟩; omega, i, hi, e'⟩
  · rw [hq]
    exact ⟨fun ⟨hnot, hlow⟩ => absurd hlow hnot, fun ⟨i, _, e⟩ => absurd e (hne _)⟩

theorem ReadAt.clock_rises_iff :
    (u.phase = .clklo ∧ v.phase ≠ .clklo) ↔ ∃ i, i < 17 ∧ c + 1 = (4 + 2 * i) * u.T.cycles := by
  rw [Ne, hu.clklo_iff, hv.clklo_iff, hT]
  rcases succ_div_cases c u.T.cycles with ⟨hc, hq⟩ | ⟨hne, hq⟩
  · rw [hq, hc]
    constructor
    · rintro ⟨⟨i, hi, e⟩, -⟩
      exact ⟨i, hi, congrArg (· * u.T.cycles) (by omega)⟩
    · rintro ⟨i, hi, e⟩
      have e' := Nat.eq_of_mul_eq_mul_right u.T.pos e
      exact ⟨⟨i, hi, by omega⟩, by rintro ⟨j, -, e⟩; omega⟩
  · rw [hq]
    exact ⟨fun ⟨hlow, hnot⟩ => absurd hlow hnot, fun ⟨i, _, e⟩ => absurd e (hne _)⟩

theorem ReadAt.strobe_falls_iff : (u.phase = .latch ∧ v.phase ≠ .latch) ↔ c + 1 = 2 * u.T.cycles := by
  rw [Ne, hu.latch_iff, hv.latch_iff, hT]
  omega

theorem ReadAt.strobe_stays_low : ¬(u.phase ≠ .latch ∧ v.phase = .latch) := by
  rw [Ne, hu.latch_iff, hv.latch_iff, hT]
  omega

end Events

/-- Settles O45: in cycle 0 the strobe rises, and in every later cycle the events follow from the hold times of the two
cycles. -/
theorem lineEventsOfARead : Obligations.LineEventsOfARead := by
  intro s hs hr c hc T before after
  have hv : ReadAt c (afterEdges (c + 1) s) := readAt_afterEdges hs hr hc
  have hpos : 0 < T := s.T.pos
  rw [strobeRose_iff, strobeFell_iff, clockFell_iff, clockRose_iff]
  cases c with
  | zero =>
    obtain ⟨hlatch, -⟩ := hv.place_latch (Nat.mul_pos Nat.two_pos (afterEdges _ s).T.pos)
    have hidle : (afterEdges 0 s).phase = .idle := hs.1
    have hne (m : Nat) (hm : 0 < m) : 0 ≠ m * T := (Nat.mul_pos hm hpos).ne
    rw [hidle, hlatch]
    exact ⟨⟨fun _ => rfl, fun _ => ⟨nofun, rfl⟩⟩, ⟨nofun, fun e => absurd e (hne 2 (by omega))⟩,
      ⟨nofun, fun ⟨i, _, e⟩ => absurd e (hne _ (by omega))⟩,
      ⟨nofun, fun ⟨i, _, e⟩ => absurd e (hne _ (by omega))⟩⟩
  | succ c =>
    have hu : ReadAt c (afterEdges (c + 1) s) := readAt_afterEdges hs hr (by omega)
    have hTu : (afterEdges (c + 1) s).T.cycles = T := congrArg Delay.cycles (afterEdges_T (c + 1) s)
    have hT : (afterEdges (c + 1 + 1) s).T = (afterEdges (c + 1) s).T := by rw [afterEdges_T, afterEdges_T]
    rw [← hTu]
    exact ⟨⟨fun h => absurd h (hu.strobe_stays_low hv hT), nofun⟩, hu.strobe_falls_iff hv hT,
      hu.clock_falls_iff hv hT, hu.clock_rises_iff hv hT⟩

/-! The completion (R57, R200) and reads back to back (R204). -/

/-- R37, R38: an edge without reset that leaves the block busy writes neither `STATE` nor a 1 to `DONE`. -/
theorem result_kept_of_busy {s : State} (hr : (hostPins s).rst = false) (hbusy : (afterEdge s).phase ≠ .idle) :
    (afterEdge s).stateReg = s.stateReg ∧ (afterEdge s).done = false := by
  have hedge := edgeCase_afterEdge s
  have hdone : ¬(afterEdge s).done = true := mt hedge.idle_of_done hbusy
  have hnot := mt hedge.done_eq_true_iff.mpr hdone
  refine ⟨?_, Bool.eq_false_iff.mpr hdone⟩
  rw [hedge.stateReg_eq, if_neg (by rw [hr]; decide), if_neg fun h => hnot ⟨hr, h⟩]

section Completion

variable {s : State} (hs : AcceptsRead s) (hr : NoResetWithin (37 * s.T.cycles + 1) s)

include hs hr

theorem busy_of_read {c : Nat} (hc : c < 37 * s.T.cycles) : (afterEdges (c + 1) s).phase ≠ .idle :=
  (readAt_afterEdges hs hr hc.le).busy (by rwa [afterEdges_T])

theorem result_of_busy_read {c : Nat} (hc : c < 37 * s.T.cycles) :
    (afterEdges (c + 1) s).stateReg = s.stateReg ∧ (afterEdges (c + 1) s).done = false := by
  have hkept {c : Nat} (hc : c < 37 * s.T.cycles) :
      (afterEdges (c + 1) s).stateReg = (afterEdges c s).stateReg ∧ (afterEdges (c + 1) s).done = false := by
    have hbusy := busy_of_read hs hr hc
    rw [afterEdges_last] at hbusy ⊢
    exact result_kept_of_busy (by rw [hostPins_afterEdges]; exact hr c (by omega)) hbusy
  refine ⟨?_, (hkept hc).2⟩
  induction c with
  | zero => exact (hkept hc).1
  | succ c ih => exact (hkept hc).1.trans (ih (by omega))

/-- R57: the completing edge leaves all of the result in one cycle. -/
theorem result_of_read :
    (afterEdges (37 * s.T.cycles + 1) s).phase = .idle ∧ (afterEdges (37 * s.T.cycles + 1) s).done = true ∧
    (afterEdges (37 * s.T.cycles + 1) s).stateReg = decodeRaw (afterEdges (37 * s.T.cycles + 1) s).raw := by
  have hpos := s.T.pos
  obtain ⟨m, hm⟩ := Nat.exists_eq_add_one.mpr (show 0 < 37 * s.T.cycles by omega)
  have hlast : ReadAt m (afterEdges (m + 1) s) := readAt_afterEdges hs hr (by omega)
  have hbusy := busy_of_read hs hr (c := m) (by omega)
  have hrst : (hostPins (afterEdges (m + 1) s)).rst = false := by rw [hostPins_afterEdges]; exact hr (m + 1) (by omega)
  have hidle : (afterEdges (37 * s.T.cycles + 1) s).phase = .idle := by
    have hend := readAt_afterEdges hs hr le_rfl
    exact (hend.place_idle (by rw [afterEdges_T])).1
  refine ⟨hidle, ?_⟩
  rw [hm, afterEdges_last] at hidle ⊢
  obtain ⟨hp, ht, hb⟩ := hlast.pace.completes_of_idle hbusy hrst hidle
  rw [afterEdge_complete hrst hp ht hb]
  exact ⟨rfl, rfl⟩

theorem stateReg_of_read :
    (afterEdges (37 * s.T.cycles + 1) s).stateReg = decodeRaw (afterEdges (37 * s.T.cycles + 1) s).raw :=
  let ⟨_, _, hresult⟩ := result_of_read hs hr
  hresult

end Completion

/-- Settles O46: no edge before the last writes the result, and the last writes all of it. -/
theorem readCompletesAfterThirtySevenT : Obligations.ReadCompletesAfterThirtySevenT := by
  intro s hs hr
  obtain ⟨hidle, hdone, hresult⟩ := result_of_read hs hr
  refine ⟨fun c hc => ?_, (busyO_eq_false_iff _).mpr hidle, hdone, hresult⟩
  obtain ⟨hstate, hdone⟩ := result_of_busy_read hs hr hc
  exact ⟨Bool.eq_true_of_not_eq_false (mt (busyO_eq_false_iff _).mp (busy_of_read hs hr hc)), hdone, hstate⟩

/-! Reads back to back (R204). -/

theorem accepts_of_held {s : State} (hp : s.phase = .idle)
    (hpins : ∀ e, e < 37 * s.T.cycles + 1 → hostAt s e = { rst := false, start := true }) :
    AcceptsRead s ∧ NoResetWithin (37 * s.T.cycles + 1) s :=
  ⟨⟨hp, by rw [hpins 0 (Nat.succ_pos _)], by rw [hpins 0 (Nat.succ_pos _)]⟩, fun e he => by rw [hpins e he]⟩

/-- R204: with `start_i` at 1, read number `k` is accepted after `k` whole reads. -/
theorem accepts_of_backToBack {s : State} (hp : s.phase = .idle) (k : Nat)
    (hpins : ∀ e, e < (k + 1) * (37 * s.T.cycles + 1) → hostAt s e = { rst := false, start := true }) :
    AcceptsRead (afterEdges (k * (37 * s.T.cycles + 1)) s) ∧
    NoResetWithin (37 * s.T.cycles + 1) (afterEdges (k * (37 * s.T.cycles + 1)) s) := by
  induction k with
  | zero => simpa using accepts_of_held hp (by simpa using hpins)
  | succ k ih =>
    have hlen := Nat.add_one_mul (k + 1) (37 * s.T.cycles + 1)
    obtain ⟨hs, hr⟩ := ih fun e he => hpins e (by omega)
    have hidle := (result_of_read hs (by rwa [afterEdges_T])).1
    rw [afterEdges_T, ← afterEdges_add, ← Nat.add_one_mul] at hidle
    have hnext := accepts_of_held hidle fun e he => by
      rw [afterEdges_T] at he
      rw [hostAt_afterEdges]
      exact hpins _ (by omega)
    rwa [afterEdges_T] at hnext

/-- R204, R57: the block is idle, with `DONE` at 1, after each whole read. -/
theorem idle_of_backToBack {s : State} (hp : s.phase = .idle) (m : Nat)
    (hpins : ∀ e, e < m * (37 * s.T.cycles + 1) → hostAt s e = { rst := false, start := true }) :
    (afterEdges (m * (37 * s.T.cycles + 1)) s).phase = .idle ∧
    (0 < m → (afterEdges (m * (37 * s.T.cycles + 1)) s).done = true) := by
  cases m with
  | zero => rw [Nat.zero_mul]; exact ⟨hp, nofun⟩
  | succ k =>
    obtain ⟨hs, hr⟩ := accepts_of_backToBack hp k hpins
    obtain ⟨hidle, hdone, -⟩ := result_of_read hs (by rwa [afterEdges_T])
    rw [afterEdges_T, ← afterEdges_add, ← Nat.add_one_mul] at hidle hdone
    exact ⟨hidle, fun _ => hdone⟩

/-- Settles O53: after each read the block is idle, and the next edge takes the request that still stands. -/
theorem backToBackReads : Obligations.BackToBackReads := by
  intro s m hp hpins
  obtain ⟨hidle, hdone⟩ := idle_of_backToBack hp m fun e he => hpins e he.le
  have hlast : hostPins (afterEdges (m * (37 * s.T.cycles + 1)) s) = { rst := false, start := true } := by
    rw [hostPins_afterEdges]
    exact hpins _ le_rfl
  refine ⟨hidle, hdone, ?_, ?_, fun k hk c hc => ?_⟩
  · rw [decodeSel_selector_of_idle hidle (by rw [hlast]), hlast]
    rfl
  · rw [afterEdges_last, afterEdge_readStart hidle hlast]
    rfl
  · have hlen : (k + 1) * (37 * s.T.cycles + 1) ≤ m * (37 * s.T.cycles + 1) := Nat.mul_le_mul_right _ hk
    obtain ⟨hs, hr⟩ := accepts_of_backToBack hp k fun e he => hpins e (by omega)
    have hbusy := busy_of_read hs (by rwa [afterEdges_T]) (c := c) (by rwa [afterEdges_T])
    rw [← afterEdges_add] at hbusy
    exact Bool.eq_true_of_not_eq_false (mt (busyO_eq_false_iff _).mp hbusy)

end Sys2Proof.Machine
end

section
/-! SUPPORT and PROOFS. What a read samples (spec/40_protocol_reader.md R110, R118; spec/70_reset_and_hazards.md R191, R201): the
chain holds the levels of the last edges, bit `i` of `RAW` is written at edge `(4+2i)*T`, and what the chain held before the
read shows nowhere. -/

namespace Sys2Proof.Machine

/-! The chain as a record of the pin (R110). -/

/-- R107, R110: with no reset on the way, `SYNC[k]` holds the level of `k + 1` edges ago. -/
theorem getElem?_sync_afterEdges {s : State} {E k : Nat} (hk : k < s.S) (hE : k < E) (hr : NoResetWithin E s) :
    (afterEdges E s).sync[k]? = some (levelAt s (E - 1 - k)) := by
  induction k generalizing E with
  | zero =>
    obtain ⟨n, rfl⟩ := Nat.exists_eq_add_one.mpr hE
    have hrst : (hostPins (afterEdges n s)).rst = false := by rw [hostPins_afterEdges]; exact hr n n.lt_succ_self
    have hlen : 0 < (afterEdges n s).sync.length := hk.trans_eq (afterEdges_S n s).symm
    rw [afterEdges_last, sync_afterEdge_of_run hrst, getElem?_shiftIn _ _ _ hlen]
    rfl
  | succ k ih =>
    obtain ⟨n, rfl⟩ := Nat.exists_eq_add_one.mpr (Nat.zero_lt_of_lt hE)
    have hrst : (hostPins (afterEdges n s)).rst = false := by rw [hostPins_afterEdges]; exact hr n n.lt_succ_self
    have hlen : k + 1 < (afterEdges n s).sync.length := hk.trans_eq (afterEdges_S n s).symm
    rw [afterEdges_last, sync_afterEdge_of_run hrst, getElem?_shiftIn _ _ _ hlen, if_neg k.succ_ne_zero,
      Nat.add_sub_cancel, ih (by omega) (by omega) fun e he => hr e (by omega)]
    congr 2
    omega

/-- Settles O15: without a chain the sample is the pin, and with one its last stage. -/
theorem sampledLevelIsSEdgesOld : Obligations.SampledLevelIsSEdgesOld := by
  intro s E hE hr
  by_cases hS : s.S = 0
  · have hnil : (afterEdges E s).sync = [] := List.length_eq_zero_iff.mp ((afterEdges_S E s).trans hS)
    rw [dsamp_of_nil hnil, hS]
    rfl
  · have hlast := getElem?_sync_afterEdges (k := s.S - 1) (by omega) (by omega) hr
    rw [show E - 1 - (s.S - 1) = E - s.S by omega] at hlast
    refine dsamp_of_getElem? ?_
    rwa [show (afterEdges E s).sync.length = s.S from afterEdges_S E s]

/-! The samples of a read (R112, R201). -/

/-- The level that a read from `s` samples at position `i` (R110), or the draw in its place (R118). -/
def readSample (s : State) (i : Nat) : Level :=
  if TimingHolds s then levelAt s ((4 + 2 * i) * s.T.cycles - s.S)
  else Config.freeSample (s.edge + (4 + 2 * i) * s.T.cycles)

/-- R112: position `i` is sampled at edge `(4+2i)*T`. -/
theorem ReadAt.samples_iff {c : Nat} {u : State} (h : ReadAt c u) {i : Nat} (hi : i < 17) :
    (u.phase = .clklo ∧ u.tcnt = u.T.cycles - 1 ∧ i = u.bidx.val) ↔ c + 1 = (4 + 2 * i) * u.T.cycles := by
  have hpos := u.T.pos
  have hhold : (4 + 2 * i) * u.T.cycles = (3 + 2 * i) * u.T.cycles + u.T.cycles := by
    rw [← Nat.add_one_mul]; congr 1; omega
  constructor
  · rintro ⟨hp, ht, rfl⟩
    have hcycle := h.cycle_eq
    rw [hp, holdsBefore] at hcycle
    omega
  · intro hc
    obtain ⟨hp, ht, hb⟩ := h.place_clklo hi (by omega) (by omega)
    exact ⟨hp, by omega, hb.symm⟩

/-- The sample that is taken at edge `(4+2i)*T`, of the state before that edge. -/
theorem sample_eq_readSample {s : State} {i : Nat} (hr : NoResetWithin ((4 + 2 * i) * s.T.cycles) s) :
    (if TimingHolds (afterEdges ((4 + 2 * i) * s.T.cycles) s) then dsamp (afterEdges ((4 + 2 * i) * s.T.cycles) s)
      else Config.freeSample (afterEdges ((4 + 2 * i) * s.T.cycles) s).edge) = readSample s i := by
  have hmul : 2 * s.T.cycles ≤ (4 + 2 * i) * s.T.cycles := Nat.mul_le_mul_right _ (by omega)
  simp only [TimingHolds, afterEdges_S, afterEdges_P, afterEdges_T, afterEdges_edge, readSample]
  split
  · exact sampledLevelIsSEdgesOld s _ (by omega) hr
  · rfl

section Samples

variable {s : State} (hs : AcceptsRead s) (hr : NoResetWithin (37 * s.T.cycles + 1) s)

include hs hr

/-- R201, by induction on the cycle: READ_START clears the bit, one edge writes it, and every other edge keeps it. -/
theorem getLsbD_raw_of_read {c : Nat} (hc : c ≤ 37 * s.T.cycles) {i : Nat} (hi : i < 17) :
    (afterEdges (c + 1) s).raw.getLsbD i = (decide ((4 + 2 * i) * s.T.cycles ≤ c) && !readSample s i) := by
  induction c with
  | zero =>
    have hpos : 0 < (4 + 2 * i) * s.T.cycles := Nat.mul_pos (by omega) s.T.pos
    rw [decide_eq_false (by omega), Bool.false_and]
    change (afterEdge s).raw.getLsbD i = false
    rw [afterEdge_of_accepts hs]
    exact BitVec.getLsbD_zero
  | succ c ih =>
    have h : ReadAt c (afterEdges (c + 1) s) := readAt_afterEdges hs hr (by omega)
    have hrst : (hostPins (afterEdges (c + 1) s)).rst = false := by rw [hostPins_afterEdges]; exact hr _ (by omega)
    have hbusy := busy_of_read hs hr (c := c) (by omega)
    have hT : c + 1 = (4 + 2 * i) * (afterEdges (c + 1) s).T.cycles ↔ c + 1 = (4 + 2 * i) * s.T.cycles := by
      rw [afterEdges_T]
    rw [afterEdges_last, (edgeCase_afterEdge _).getLsbD_raw, hrst, if_neg (by decide), if_neg fun e => hbusy e.1,
      if_congr ((h.samples_iff hi).trans hT) rfl rfl]
    by_cases hat : c + 1 = (4 + 2 * i) * s.T.cycles
    · rw [if_pos hat, decide_eq_true hat.ge, Bool.true_and, hat, sample_eq_readSample fun e he => hr e (by omega)]
    · rw [if_neg hat, ih (by omega)]
      congr 2
      exact propext ⟨fun e => by omega, fun e => by omega⟩

/-- R112: at the end every bit of `RAW` is the inverse of its sample. -/
theorem getLsbD_raw_of_whole_read {i : Nat} (hi : i < 17) :
    (afterEdges (37 * s.T.cycles + 1) s).raw.getLsbD i = !readSample s i := by
  have hle : (4 + 2 * i) * s.T.cycles ≤ 37 * s.T.cycles := Nat.mul_le_mul_right _ (by omega)
  rw [getLsbD_raw_of_read hs hr le_rfl hi, decide_eq_true hle, Bool.true_and]

end Samples

/-- Settles O47, by induction on the cycle. -/
theorem rawFillsPositionByPosition : Obligations.RawFillsPositionByPosition :=
  fun _ hs hr _ hc _ hi => getLsbD_raw_of_read hs hr hc hi

/-- Settles O50: where R203(a) fails the sample of every position is a draw, each of an edge of its own. -/
theorem samplesOutsideTheTimingAreDraws : Obligations.SamplesOutsideTheTimingAreDraws := by
  intro s htiming hs hr
  obtain ⟨-, hdone, hresult⟩ := result_of_read hs hr
  refine ⟨fun i hi => ?_, fun i j hij he => hij ?_, hresult, hdone⟩
  · rw [getLsbD_raw_of_whole_read hs hr hi, readSample, if_neg htiming]
  · have hmul := Nat.eq_of_mul_eq_mul_right s.T.pos (Nat.add_left_cancel he)
    omega

/-! The contents of the chain before a read (R191). -/

/-- The environment's part of an edge: the pad follows the lines. -/
theorem pad_afterEdge (s : State) :
    (afterEdge s).pad = padNext s.pad (linesOf s) (linesOf (afterEdge s)) s.edge := by
  have h := edgeCase_afterEdge s
  generalize afterEdge s = t at h ⊢
  cases h <;> rfl

/-- Two states that differ at most in the chain's contents and in the data registers. -/
structure SameInputs (s s' : State) : Prop where
  place : SamePlace s s'
  P : s.P = s'.P
  hostIn : s.hostIn = s'.hostIn
  pad : s.pad = s'.pad
  edge : s.edge = s'.edge

theorem SameInputs.hostPins_eq {s s' : State} (h : SameInputs s s') : hostPins s = hostPins s' := by
  rw [hostPins, hostPins, h.hostIn, h.edge]

theorem SameInputs.dataI_eq {s s' : State} (h : SameInputs s s') : dataI s = dataI s' := by
  rw [dataI, dataI, h.P, h.pad, h.edge]

theorem linesOf_congr {s s' : State} (h : s.phase = s'.phase) : linesOf s = linesOf s' := by
  rw [linesOf, linesOf, strobeO_congr h, clockO_congr h]

/-- Neither the place nor the environment reads the chain or a data register. -/
theorem SameInputs.next {s s' : State} (h : SameInputs s s') : SameInputs (afterEdge s) (afterEdge s') := by
  have hplace : SamePlace (afterEdge s) (afterEdge s') :=
    h.place.next (congrArg _ h.hostPins_eq) fun _ => congrArg _ h.hostPins_eq
  refine ⟨hplace, ?_, ?_, ?_, ?_⟩
  · rw [afterEdge_P, afterEdge_P, h.P]
  · rw [afterEdge_hostIn, afterEdge_hostIn, h.hostIn]
  · rw [pad_afterEdge, pad_afterEdge, h.pad, h.edge, linesOf_congr h.place.phase, linesOf_congr hplace.phase]
  · rw [afterEdge_edge, afterEdge_edge, h.edge]

theorem SameInputs.run {s s' : State} (h : SameInputs s s') (n : Nat) :
    SameInputs (afterEdges n s) (afterEdges n s') := by
  induction n with
  | zero => exact h
  | succ n ih => rw [afterEdges_last, afterEdges_last]; exact ih.next

theorem SameInputs.readSample_eq {s s' : State} (h : SameInputs s s') (hS : s.S = s'.S) (i : Nat) :
    readSample s i = readSample s' i := by
  have hlevel (e : Nat) : levelAt s e = levelAt s' e := (h.run e).dataI_eq
  simp only [readSample, TimingHolds, hlevel, hS, h.P, h.place.T, h.edge]

/-- Settles O54: the two reads have the same samples, so the same `RAW` in every cycle and the same result. -/
theorem synchronizerContentsAreUnobservable : Obligations.SynchronizerContentsAreUnobservable := by
  intro s chain hs hr hlen c hc
  let s' : State := { s with sync := chain }
  have hinputs : SameInputs s' s := ⟨⟨rfl, rfl, rfl, rfl⟩, rfl, rfl, rfl, rfl⟩
  have hs' : AcceptsRead s' := hs
  have hr' : NoResetWithin (37 * s'.T.cycles + 1) s' := hr
  have hraw {c : Nat} (hc : c ≤ 37 * s.T.cycles) : (afterEdges (c + 1) s').raw = (afterEdges (c + 1) s).raw := by
    refine BitVec.eq_of_getLsbD_eq fun i hi => ?_
    rw [getLsbD_raw_of_read hs' hr' hc hi, getLsbD_raw_of_read hs hr hc hi, hinputs.readSample_eq hlen i]
  refine ⟨hraw hc, ?_⟩
  rcases Nat.lt_or_eq_of_le hc with hlt | rfl
  · exact (result_of_busy_read hs' hr' hlt).1.trans (result_of_busy_read hs hr hlt).1.symm
  · calc (afterEdges (37 * s.T.cycles + 1) s').stateReg
      _ = decodeRaw (afterEdges (37 * s.T.cycles + 1) s').raw := stateReg_of_read hs' hr'
      _ = decodeRaw (afterEdges (37 * s.T.cycles + 1) s).raw := congrArg decodeRaw (hraw le_rfl)
      _ = (afterEdges (37 * s.T.cycles + 1) s).stateReg := (stateReg_of_read hs hr).symm

end Sys2Proof.Machine
end

section
/-! SUPPORT and PROOFS. A read against its environment (spec/40_protocol_reader.md R116, R117, R119): the events of a read come
every `2*T` cycles, so the contract fixes each sampled level; the model's controller meets the contract; and the pads that do
not answer. -/

namespace Sys2Proof.Machine

/-! A line that stays at one level is sampled at that level. -/

theorem readSample_of_constant {s : State} {l : Level} (htiming : TimingHolds s)
    (h : ∀ e, e < 37 * s.T.cycles + 1 → levelAt s e = l) {i : Nat} (hi : i < 17) : readSample s i = l := by
  have hend : (4 + 2 * i) * s.T.cycles ≤ 36 * s.T.cycles := Nat.mul_le_mul_right _ (by omega)
  rw [readSample, if_pos htiming]
  exact h _ (by omega)

/-! The events of a read (R116(d)). -/

section Events

variable {s : State} (hs : AcceptsRead s) (hr : NoResetWithin (37 * s.T.cycles + 1) s)

include hs hr

/-- R113, R116(d): an event shows in every cycle `2*T*k` of a read, and in no other. -/
theorem eventShows_iff {c : Nat} (hc : c ≤ 37 * s.T.cycles) :
    eventShows s c = true ↔ 0 < c ∧ 2 * s.T.cycles ∣ c := by
  have hpos := s.T.pos
  obtain ⟨-, hfell, -, hrose⟩ := lineEventsOfARead s hs hr c hc
  rw [eventShows, Bool.or_eq_true, hfell, hrose]
  constructor
  · rintro (rfl | ⟨i, -, rfl⟩)
    · exact ⟨by omega, dvd_rfl⟩
    · exact ⟨Nat.mul_pos (by omega) hpos, 2 + i, by ring⟩
  · rintro ⟨h0, k, rfl⟩
    have hk : 0 < k := Nat.pos_of_mul_pos_left h0
    have hmul : 2 * s.T.cycles * k = 2 * k * s.T.cycles := by ring
    have hk' : 2 * k ≤ 37 := Nat.le_of_mul_le_mul_right (hmul ▸ hc) hpos
    by_cases hone : k = 1
    · exact .inl (by rw [hone, Nat.mul_one])
    · refine .inr ⟨k - 2, by omega, ?_⟩
      rw [hmul]
      congr 1
      omega

/-- The number of events is the number of whole `2*T` cycles. -/
theorem eventsUpTo_eq {c : Nat} (hc : c ≤ 37 * s.T.cycles) : eventsUpTo s c = c / (2 * s.T.cycles) := by
  induction c with
  | zero =>
    have hnone : ¬eventShows s 0 = true := fun h => absurd ((eventShows_iff hs hr hc).mp h).1 (Nat.lt_irrefl 0)
    simp [eventsUpTo, hnone]
  | succ c ih =>
    have hnext : eventsUpTo s (c + 1) = eventsUpTo s c + if eventShows s (c + 1) = true then 1 else 0 := by
      rw [eventsUpTo, eventsUpTo, List.range_succ, List.countP_append, List.countP_singleton]
    rw [hnext, ih (by omega), Nat.succ_div, if_congr (eventShows_iff hs hr hc) rfl rfl]
    simp

/-! The contract fixes the samples (R117). -/

/-- R117: position `i` is sampled in the window of the event that asks for bit `i`. -/
theorem readSample_of_contract {b : ButtonVector} (htiming : TimingHolds s)
    (h : PresentsButtons s b (37 * s.T.cycles + 1)) {i : Nat} (hi : i < 17) : readSample s i = presentedLevel b i := by
  have hpos := s.T.pos
  have hwindow : (4 + 2 * i) * s.T.cycles = 2 * s.T.cycles * (i + 1) + 2 * s.T.cycles := by ring
  have hend : (4 + 2 * i) * s.T.cycles ≤ 36 * s.T.cycles := Nat.mul_le_mul_right _ (by omega)
  have hevent : eventShows s (2 * s.T.cycles * (i + 1)) = true :=
    (eventShows_iff hs hr (by omega)).mpr ⟨Nat.mul_pos (by omega) i.succ_pos, Nat.dvd_mul_right _ _⟩
  have hquiet (c' : Nat) (hlo : 2 * s.T.cycles * (i + 1) < c') (hhi : c' < (4 + 2 * i) * s.T.cycles - s.S) :
      eventShows s c' = false := by
    refine Bool.eq_false_iff.mpr fun hshow => ?_
    obtain ⟨-, k, rfl⟩ := (eventShows_iff hs hr (by omega)).mp hshow
    have hk : i + 1 < k := Nat.lt_of_mul_lt_mul_left hlo
    have hk' : k < i + 2 := Nat.lt_of_mul_lt_mul_left (a := 2 * s.T.cycles) (by rw [Nat.mul_succ]; omega)
    omega
  rw [readSample, if_pos htiming, h _ _ hevent (by omega) (by omega) hquiet, eventsUpTo_eq hs hr (by omega),
    Nat.mul_div_cancel_left _ (by omega), Nat.add_sub_cancel]

/-- R116(f), R117: a line that stays high leaves zero. -/
theorem raw_of_pulledHigh (htiming : TimingHolds s) (h : PulledHigh s (37 * s.T.cycles + 1)) :
    (afterEdges (37 * s.T.cycles + 1) s).raw = 0x00000 ∧ (afterEdges (37 * s.T.cycles + 1) s).stateReg = 0x0000 := by
  have hraw : (afterEdges (37 * s.T.cycles + 1) s).raw = 0x00000 := BitVec.eq_of_getLsbD_eq fun i hi => by
    rw [getLsbD_raw_of_whole_read hs hr hi, readSample_of_constant htiming h hi]
    exact BitVec.getLsbD_zero.symm
  refine ⟨hraw, ?_⟩
  rw [stateReg_of_read hs hr, hraw]
  decide

/-- R116(g), R171: a line that stays low leaves all ones. -/
theorem raw_of_heldLow (htiming : TimingHolds s) (h : ∀ e, e < 37 * s.T.cycles + 1 → levelAt s e = false) :
    (afterEdges (37 * s.T.cycles + 1) s).raw = 0x1FFFF ∧ (afterEdges (37 * s.T.cycles + 1) s).stateReg = 0x1F87 := by
  have hones : ∀ i, i < 17 → (0x1FFFF : RawSample).getLsbD i = true := by decide
  have hraw : (afterEdges (37 * s.T.cycles + 1) s).raw = 0x1FFFF := BitVec.eq_of_getLsbD_eq fun i hi => by
    rw [getLsbD_raw_of_whole_read hs hr hi, readSample_of_constant htiming h hi, hones i hi]
    rfl
  refine ⟨hraw, ?_⟩
  rw [stateReg_of_read hs hr, hraw]
  decide

/-- R117: the buttons in `RAW[15:0]` and presence in `RAW[16]`. -/
theorem raw_of_contract {b : ButtonVector} (htiming : TimingHolds s) (h : PresentsButtons s b (37 * s.T.cycles + 1)) :
    (∀ i, i < 16 → (afterEdges (37 * s.T.cycles + 1) s).raw.getLsbD i = b.getLsbD i) ∧
    (afterEdges (37 * s.T.cycles + 1) s).raw.getLsbD 16 = true := by
  constructor
  · intro i hi
    rw [getLsbD_raw_of_whole_read hs hr (by omega), readSample_of_contract hs hr htiming h (by omega), presentedLevel,
      if_pos hi, Bool.not_not]
  · rw [getLsbD_raw_of_whole_read hs hr (by omega), readSample_of_contract hs hr htiming h (by omega)]
    rfl

end Events

/-- Settles O48: the contract fixes the level of every sample, and so does a line that stays high. -/
theorem readReturnsTheButtons : Obligations.ReadReturnsTheButtons := by
  intro s b hs hr htiming t
  refine ⟨fun h => ?_, raw_of_pulledHigh hs hr htiming⟩
  obtain ⟨hbuttons, hpresence⟩ := raw_of_contract hs hr htiming h
  exact ⟨hbuttons, hpresence, stateReg_of_read hs hr⟩

/-! Pads that do not answer (R119, R171). -/

theorem pad_afterEdges_succ (n : Nat) (s : State) :
    (afterEdges (n + 1) s).pad =
      padNext (afterEdges n s).pad (linesOf (afterEdges n s)) (linesOf (afterEdges (n + 1) s))
        (afterEdges n s).edge := by
  rw [afterEdges_last, pad_afterEdge]

theorem pad_afterEdges_of_fixed {p : Pad} (hp : ∀ before after n, padNext p before after n = p) {s : State}
    (hs : s.pad = p) (n : Nat) : (afterEdges n s).pad = p := by
  induction n with
  | zero => exact hs
  | succ n ih => rw [pad_afterEdges_succ, ih, hp]

theorem levelAt_of_disconnected {s : State} (hs : s.pad = .disconnected) (e : Nat) : levelAt s e = true := by
  rw [levelAt, dataI, pad_afterEdges_of_fixed (fun _ _ _ => rfl) hs]
  rfl

theorem levelAt_of_stuckLow {s : State} (hs : s.pad = .stuckLow) (e : Nat) : levelAt s e = false := by
  rw [levelAt, dataI, pad_afterEdges_of_fixed (fun _ _ _ => rfl) hs]
  rfl

/-- Settles O51: either pad holds the line at one level, and the read ends as every read does. -/
theorem absentAndStuckLowPads : Obligations.AbsentAndStuckLowPads := by
  intro s hs hr t
  obtain ⟨hidle, hdone, -⟩ := result_of_read hs hr
  exact ⟨fun htiming hpad => raw_of_pulledHigh hs hr htiming fun e _ => levelAt_of_disconnected hpad e,
    fun htiming hpad => raw_of_heldLow hs hr htiming fun e _ => levelAt_of_stuckLow hpad e, hdone, hidle⟩

/-! The model's controller (R116). -/

theorem controllerNext_of_strobe (k : Controller) {before after : Lines} (h : after.strobe = true) (n : Nat) :
    controllerNext k before after n =
      { k with moving := if Lines.strobeRose before after then 0 else k.moving, events := 0, age := 0 } := by
  rw [controllerNext, if_neg (by simp [Lines.strobeFell, h]), if_pos h]

theorem controllerNext_of_clockRose {k : Controller} {before after : Lines}
    (hfell : ¬Lines.strobeFell before after = true) (hstrobe : after.strobe = false)
    (hrose : Lines.clockRose before after = true) (hk : k.events ≠ 0) (n : Nat) :
    controllerNext k before after n = { k with events := k.events + 1, age := 0 } := by
  rw [controllerNext, if_neg hfell, if_neg (by rw [hstrobe]; decide), if_pos (by simp [hrose, hk])]

theorem controllerNext_of_no_event {k : Controller} {before after : Lines}
    (hfell : ¬Lines.strobeFell before after = true) (hstrobe : after.strobe = false)
    (hrose : ¬Lines.clockRose before after = true) (n : Nat) :
    controllerNext k before after n = { k with age := k.age + 1 } := by
  rw [controllerNext, if_neg hfell, if_neg (by rw [hstrobe]; decide), if_neg (by simp [hrose])]

/-- The controller `k` in cycle `c` of a read with the buttons `b` still, where events come every `period` cycles. -/
structure InStep (b : ButtonVector) (period c : Nat) (k : Controller) : Prop where
  buttons : k.buttons = b
  events : k.events = c / period
  still : c < period → k.moving = 0
  captured : period ≤ c → k.captured = b
  age : period ≤ c → k.age = c % period

/-- The controller over one edge: during the latch pulse nothing moves, at its end the buttons are captured, and after that it
counts the events and the cycles since the last one. -/
theorem InStep.next {b : ButtonVector} {period c : Nat} {k : Controller} (h : InStep b period c k)
    (hperiod : 0 < period) {before after : Lines} (hhigh : after.strobe = true ↔ c + 1 < period)
    (hrise : ¬Lines.strobeRose before after = true) (hfell : Lines.strobeFell before after = true ↔ c + 1 = period)
    (hrose : c + 1 ≠ period → (Lines.clockRose before after = true ↔ period ∣ c + 1)) (n : Nat) :
    InStep b period (c + 1) (controllerNext k before after n) := by
  obtain ⟨hbuttons, hevents, hstill, hcaptured, hage⟩ := h
  rcases Nat.lt_trichotomy (c + 1) period with hlt | heq | hgt
  · rw [controllerNext_of_strobe k (hhigh.mpr hlt), if_neg hrise]
    exact ⟨hbuttons, (Nat.div_eq_of_lt hlt).symm, fun _ => hstill (by omega), fun _ => by omega, fun _ => by omega⟩
  · rw [controllerNext_of_strobeFell k (hfell.mpr heq), capturedButtons_of_still (hstill (by omega)), heq]
    exact ⟨hbuttons, (Nat.div_self hperiod).symm, fun _ => rfl, fun _ => hbuttons,
      fun _ => (Nat.mod_self period).symm⟩
  · have hlow : after.strobe = false := Bool.eq_false_iff.mpr (mt hhigh.mp (by omega))
    have hnotFell := mt hfell.mp hgt.ne'
    have hle : period ≤ c := by omega
    by_cases hdvd : period ∣ c + 1
    · have hne : k.events ≠ 0 := hevents ▸ (Nat.div_pos hle hperiod).ne'
      rw [controllerNext_of_clockRose hnotFell hlow ((hrose hgt.ne').mpr hdvd) hne]
      exact ⟨hbuttons, by rw [Nat.succ_div_of_dvd hdvd, ← hevents], fun _ => by omega, fun _ => hcaptured hle,
        fun _ => (Nat.mod_eq_zero_of_dvd hdvd).symm⟩
    · have hq := Nat.succ_div_of_not_dvd hdvd
      have hdiv := Nat.div_add_mod c period
      have hdiv' := Nat.div_add_mod (c + 1) period
      rw [hq] at hdiv'
      rw [controllerNext_of_no_event hnotFell hlow (mt (hrose hgt.ne').mp hdvd)]
      exact ⟨hbuttons, hevents.trans hq.symm, fun _ => by omega, fun _ => hcaptured hle,
        fun _ => (congrArg (· + 1) (hage hle)).trans (by omega)⟩

section ClosedLoop

variable {s : State} (hs : AcceptsRead s) (hr : NoResetWithin (37 * s.T.cycles + 1) s) {k₀ : Controller}
  (hpad : s.pad = .connected k₀)

include hs hr hpad

theorem inStep_of_read {c : Nat} (hc : c ≤ 37 * s.T.cycles) :
    ∃ k, (afterEdges (c + 1) s).pad = .connected k ∧ InStep k₀.buttons (2 * s.T.cycles) c k := by
  have hpos := s.T.pos
  have hhigh {c : Nat} (hc : c ≤ 37 * s.T.cycles) :
      (linesOf (afterEdges (c + 1) s)).strobe = true ↔ c < 2 * s.T.cycles := by
    have hlatch := (readAt_afterEdges hs hr hc).latch_iff
    rw [afterEdges_T] at hlatch
    exact (strobeO_eq_true_iff _).trans hlatch
  induction c with
  | zero =>
    obtain ⟨hrise, -⟩ := lineEventsOfARead s hs hr 0 hc
    have hpad' : (afterEdges 0 s).pad = .connected k₀ := hpad
    refine ⟨_, by rw [pad_afterEdges_succ, hpad']; rfl, ?_⟩
    rw [controllerNext_of_strobe k₀ ((hhigh hc).mpr (by omega)), if_pos (hrise.mpr rfl)]
    exact ⟨rfl, (Nat.zero_div _).symm, fun _ => rfl, fun _ => by omega, fun _ => by omega⟩
  | succ c ih =>
    obtain ⟨k, hk, hstep⟩ := ih (by omega)
    obtain ⟨hrise, hfell, -, -⟩ := lineEventsOfARead s hs hr (c + 1) hc
    have hevent := eventShows_iff hs hr hc
    rw [eventShows, Bool.or_eq_true, hfell] at hevent
    refine ⟨_, by rw [pad_afterEdges_succ, hk]; rfl, ?_⟩
    refine hstep.next (by omega) (hhigh hc) (mt hrise.mp c.succ_ne_zero) hfell (fun hne => ?_) _
    exact ⟨fun h => (hevent.mp (.inr h)).2, fun h => (hevent.mpr ⟨c.succ_pos, h⟩).resolve_left hne⟩

/-- R116: in a read with its buttons still, the model's controller meets the contract for these buttons. -/
theorem presentsButtons_of_connected : PresentsButtons s k₀.buttons (37 * s.T.cycles + 1) := by
  intro c e hshow hlo hhi hquiet
  obtain ⟨d, rfl⟩ := Nat.exists_eq_add_one.mpr (show 0 < e by omega)
  obtain ⟨h0, q, rfl⟩ := (eventShows_iff hs hr (by omega)).mp hshow
  obtain ⟨k, hk, hstep⟩ := inStep_of_read hs hr hpad (c := d) (by omega)
  have hq : 0 < q := Nat.pos_of_mul_pos_left h0
  have hfirst : 2 * s.T.cycles ≤ 2 * s.T.cycles * q := Nat.le_mul_of_pos_right _ hq
  have hwindow : d < 2 * s.T.cycles * (q + 1) := by
    by_contra hle
    have hnext : eventShows s (2 * s.T.cycles * (q + 1)) = true :=
      (eventShows_iff hs hr (by omega)).mpr ⟨by rw [Nat.mul_succ]; omega, Nat.dvd_mul_right _ _⟩
    rw [hquiet _ (by rw [Nat.mul_succ]; omega) (by omega)] at hnext
    cases hnext
  have hdiv : d / (2 * s.T.cycles) = q :=
    Nat.div_eq_of_lt_le (by rw [Nat.mul_comm]; omega) (by rwa [Nat.mul_comm])
  have hage : k.age = d - 2 * s.T.cycles * q := by
    have hmod := Nat.div_add_mod d (2 * s.T.cycles)
    rw [hdiv] at hmod
    rw [hstep.age (by omega)]
    omega
  rw [eventsUpTo_eq hs hr (by omega), Nat.mul_div_cancel_left _ (by omega)]
  rw [levelAt, dataI, afterEdges_P, hk, padLevel, controllerLevel, hstep.events, hdiv, hstep.captured (by omega),
    if_neg (by omega)]

end ClosedLoop

/-- Settles O49: the model's controller meets the contract, so O48's argument applies to it. -/
theorem connectedControllerIsReadCorrectly : Obligations.ConnectedControllerIsReadCorrectly := by
  intro s k hpad hs hr htiming t
  obtain ⟨hbuttons, hpresence⟩ := raw_of_contract hs hr htiming (presentsButtons_of_connected hs hr hpad)
  have hresult : t.stateReg = decodeRaw t.raw := stateReg_of_read hs hr
  refine ⟨hbuttons, hpresence, ?_, hresult⟩
  rw [hresult, decodeRaw_bit_zero]
  exact hpresence

end Sys2Proof.Machine
end
